-- ==== Sys2Proof/Word.lean ====
section
/-! DEFINITION. The plainest types of the model: a byte and the side of the relay. -/

namespace Sys2Proof

/-- One byte of a telegram (R4, R184). -/
abbrev Byte := BitVec 8

/-- The two sides of the relay (R3): each faces one segment through one line port. -/
inductive Side where
  | a
  | b
  deriving DecidableEq, Repr

/-- The other side: Y of a statement made for side X (00_scope.md, Sides). -/
def Side.other : Side → Side
  | .a => .b
  | .b => .a

end Sys2Proof
end

