-- ==== Sys2Proof/Syntax.lean ====
section
/-! DEFINITION. The commands: one constructor per row of spec/opcode_table.json. -/

namespace Sys2Proof

/-- The levels of the strap pins (R188). -/
structure Straps where
  /-- STATION[10:0] -/
  station : BitVec 11
  /-- RATE[1:0] -/
  rate : BitVec 2
  /-- START, true for high -/
  start : Bool
  deriving DecidableEq, Repr

/-- The part's steps. `elapsed` is the time in microseconds since the step before (log 1); a step at which a timer's
moment arrives has no such operand, and a step that follows at once from another (log 3) has none either. -/
inductive Instr where
  /-- HARDWARE_RESET (R189): the rising edge of RESET_N, or power-up, with the strap levels found. -/
  | hardwareReset (elapsed : Nat) (straps : Straps)
  /-- LINE_DOWN (R22): LINE_OK has been low for 10 ms on a port that is up. -/
  | lineDown (side : Side)
  /-- LINE_UP (R23): LINE_OK has been high for 100 ms on a DOWN port. -/
  | lineUp (side : Side)
  /-- LINE_ACTIVITY_START (R36, R29): line activity of another station begins. -/
  | lineActivityStart (elapsed : Nat) (side : Side)
  /-- RECEPTION_END (R25): the line returns to quiet after the bytes given. -/
  | receptionEnd (elapsed : Nat) (side : Side) (bytes : List Byte)
  /-- REPLY_SENT (R35): the reply has been sent in full. -/
  | replySent (elapsed : Nat) (side : Side)
  /-- QUIET_WAIT_COMPLETE (R29): the access gap and the deferral are over. -/
  | quietWaitComplete (side : Side)
  /-- CONTENTION_LOSS (R30): the port loses the line while sending. -/
  | contentionLoss (elapsed : Nat) (side : Side)
  /-- TRANSMIT_DONE (R33): the chosen telegram has been sent in full. -/
  | transmitDone (elapsed : Nat) (side : Side)
  /-- REPLY_TIMER_EXPIRY (R36): 120 bit times have passed without line activity. -/
  | replyTimerExpiry (side : Side)
  /-- HOLD_END (R119) of the record given. -/
  | holdEnd (record : Nat)
  /-- LIFETIME_EXPIRY (R120) of the record given. -/
  | lifetimeExpiry (record : Nat)
  /-- AGING_TICK (R69). -/
  | agingTick
  /-- DUP_HOLD_EXPIRY (R91) of the entry of the source given. -/
  | dupHoldExpiry (source : Nat)
  /-- LEASE_EXPIRY (R149). -/
  | leaseExpiry
  /-- EVENT_REPEAT_EXPIRY (R176). -/
  | eventRepeatExpiry
  /-- EVENT_CLAIM_GRANTED (R78). -/
  | eventClaimGranted
  /-- RESPONSE_CLAIM_GRANTED (R153): the head request executes at a release. -/
  | responseClaimGranted
  /-- MALFORMED_REQUEST (R157): the head executes as too short or unknown. -/
  | malformedRequest
  /-- IDENTIFY (R160): the head executes. -/
  | identify
  /-- READ_STATIONS (R161): the head executes. -/
  | readStations
  /-- READ_CONFIG (R162): the head executes. -/
  | readConfig
  /-- READ_COUNTERS (R163): the head executes. -/
  | readCounters
  /-- READ_CUSTODY (R164): the head executes. -/
  | readCustody
  /-- READ_EVENTS (R181): the head executes. -/
  | readEvents
  /-- OPEN_SESSION (R139): the head executes. -/
  | openSession
  /-- CLOSE_SESSION (R140): the head executes. -/
  | closeSession
  /-- STAGE_STATION (R142): the head executes. -/
  | stageStation
  /-- UNSTAGE_STATION (R143): the head executes. -/
  | unstageStation
  /-- STAGE_GROUPS (R144): the head executes. -/
  | stageGroups
  /-- STAGE_PARAMS (R145): the head executes. -/
  | stageParams
  /-- COMMIT (R147): the head executes. -/
  | commit
  /-- PURGE (R165): the head executes. -/
  | purge
  /-- RESTART (R166): the head executes. -/
  | restart
  /-- RESTART_QUEUES (R168): the restart is carried out at the end of its response. -/
  | restartQueues
  /-- RESTART_FULL (R169): the restart is carried out, with the strap levels found. -/
  | restartFull (straps : Straps)
  /-- SET_EVENT_STATION (R178): the head executes. -/
  | setEventStation
  /-- SET_EVENT_MASK (R180): the head executes. -/
  | setEventMask
  /-- CLEAR_EVENTS (R179): the head executes. -/
  | clearEvents
  /-- LINE_OK_CHANGE (R21): the LINE_OK input of a port takes the level given. -/
  | lineOkChange (elapsed : Nat) (side : Side) (level : Bool)
  /-- RESET_N_LOW (R189): RESET_N has gone low and has stayed low for the microseconds given. -/
  | resetNLow (elapsed : Nat) (lowFor : Nat)
  deriving DecidableEq, Repr

end Sys2Proof
end

