-- ==== Sys2Proof/Decode.lean ====
section
/-! DEFINITION. Commands spelled by bits. No row of spec/opcode_table.json gives bits (98_reader.md: n_rows_with_fields
is 0), so no word spells a command (log 16). The telegrams' own bits are read in Machine/Telegram.lean. -/

namespace Sys2Proof

/-- The command that the `nbits` bits of `w` spell: none, since no row of the table gives bits (log 16). -/
def decodeTableWord (_nbits _w : Nat) : Option Instr := none

end Sys2Proof
end

