-- ==== Sys2Proof/Config.lean ====
section
/-! DEFINITION. The quantities the part fixes (00_scope.md, KEY QUANTITIES). Moments and durations are in microseconds. -/

namespace Sys2Proof.Config

/-- Cells of the pool (R74). -/
def poolCells : Nat := 384
/-- Custody descriptors (R106). -/
def descriptors : Nat := 64
/-- Free descriptors a new FORWARD record needs (R96, R106). -/
def forwardDescriptorFloor : Nat := 5
/-- The relay-origination cell reserve (R76). -/
def originationReserve : Nat := 8
/-- Telegrams of one plain queue (R82). -/
def plainQueueLimit : Nat := 48
/-- Entries of the duplicate table (R87). -/
def duplicateLimit : Nat := 128
/-- Entries of the Station Table (R43). -/
def stationLimit : Nat := 256
/-- Entries of the staged list (R137). -/
def stagedLimit : Nat := 256
/-- Requests of the management request queue (R101). -/
def requestLimit : Nat := 4
/-- The access gap, in bit times (R15). -/
def accessGapBits : Nat := 48
/-- One deferral slot, in bit times (R15). -/
def slotBits : Nat := 16
/-- The reply timer, in bit times (R36). -/
def replyTimerBits : Nat := 120
/-- Consecutive contention losses at which a telegram is given up (R31). -/
def lossLimit : Nat := 16
/-- LINE_OK low this long takes a port DOWN (R21): 10 ms. -/
def lowDebounce : Nat := 10000
/-- LINE_OK high this long brings a port up (R21): 100 ms. -/
def highDebounce : Nat := 100000
/-- The aging tick (R69): 1 s. -/
def agingPeriod : Nat := 1000000
/-- One millisecond. -/
def millisecond : Nat := 1000
/-- One second. -/
def second : Nat := 1000000
/-- A low pulse on RESET_N shorter than this has no effect (R189). -/
def resetPulse : Nat := 10
/-- The largest reception the receive staging keeps whole (R8). -/
def stagingBytes : Nat := 247
/-- The vendor code of IDENTIFY (R186). -/
def vendorCode : Nat := 0x0731
/-- The part code of IDENTIFY (R186). -/
def partCode : Nat := 0x0230
/-- The revision of IDENTIFY (R186). -/
def revision : Nat := 0x01

end Sys2Proof.Config
end

