-- ==== Sys2Proof/Machine/State.lean ====
section
/-! DEFINITION. The state of the relay: plain data, every register, table, queue and pin the spec names, and the
queue of the commands that wait. Moments are microseconds of one clock (log 1). -/

namespace Sys2Proof.Machine

/-! ## Telegrams -/

/-- The ten kinds (R5). -/
inductive Kind where
  | pdata | cdata | mreq | mrsp | event | notice | sreset | ack | busy | reject
  deriving DecidableEq, Repr

/-- The fields of a telegram (R4). LEN is the length of the payload; the reserved bits are zero. -/
structure Telegram where
  dst : Nat
  src : Nat
  kind : Kind
  seq : BitVec 4
  payload : List Byte
  deriving DecidableEq, Repr

/-- The four reject reasons the relay gives (R6). -/
inductive RejectReason where
  | notAdmitted | pathDown | unknownDest | noService
  deriving DecidableEq, Repr

/-- A final reply (R6, R87): ACK, or REJECT with its reason. -/
inductive FinalReply where
  | ack
  | reject (reason : RejectReason)
  deriving DecidableEq, Repr

/-- What a reply of the relay says (R6). -/
inductive ReplyKind where
  | busy
  | final (reply : FinalReply)
  deriving DecidableEq, Repr

/-- A reply the relay sends in a slot (R18): its addressee, its SEQ and what it says. -/
structure Reply where
  addressee : Nat
  seq : BitVec 4
  kind : ReplyKind
  deriving DecidableEq, Repr

/-! ## Line ports (R19) -/

/-- The six port states (R20). -/
inductive PortState where
  | down | idle | defer | sending | awaitReply | replying
  deriving DecidableEq, Repr

/-- What a port has chosen to send (R19): a record, or the head of its plain queue. -/
inductive Choice where
  | record (number : Nat)
  | plain
  deriving DecidableEq, Repr

/-- The two classes the arbiter alternates between (R27). -/
inductive TrafficClass where
  | confirmed | plain
  deriving DecidableEq, Repr

/-- The state a port goes back to from REPLYING (R19). -/
inductive ReturnState where
  | idle | defer
  deriving DecidableEq, Repr

/-- The reply timer (R19, R36): running since a moment, or held by line activity. -/
inductive ReplyTimer where
  | stopped
  | running (since : Nat)
  | held
  deriving DecidableEq, Repr

/-- The receive staging (R19, R25): empty with the line quiet, collecting a reception, or passing over activity that
began while the port replied (R34). The bytes come with the step that ends the reception (log 12). -/
inductive Staging where
  | empty | collecting | passedOver
  deriving DecidableEq, Repr

/-- One line port (R19), with the reply it is sending and the telegram on TXD (log 18). -/
structure Port where
  state : PortState
  choice : Option Choice
  lossCount : Nat
  deferral : Option Nat
  lastClass : TrafficClass
  returnState : Option ReturnState
  awaited : Option Nat
  replyTimer : ReplyTimer
  staging : Staging
  /-- debounce: the LINE_OK level last seen -/
  lineOk : Bool
  /-- debounce: since when that level has held -/
  lineOkSince : Nat
  /-- the line-quiet measure (R29): when the last activity ended -/
  quietSince : Nat
  /-- the reply on the line in REPLYING -/
  reply : Option Reply
  /-- the bytes the port is sending, check word included; none while it does not send -/
  txd : List Byte
  deriving DecidableEq, Repr

/-! ## Station Table and configuration -/

/-- The origin of a station entry, a LEARNED one with its idle seconds (R42). -/
inductive EntryOrigin where
  | loaded
  | learned (idle : Nat)
  deriving DecidableEq, Repr

/-- A station entry (R42). -/
structure StationEntry where
  station : Nat
  side : Side
  origin : EntryOrigin
  admitPlain : Bool
  admitConfirmed : Bool
  manage : Bool
  deriving DecidableEq, Repr

/-- A staged entry (R137): no origin and no idle seconds. -/
structure StagedEntry where
  station : Nat
  side : Side
  admitPlain : Bool
  admitConfirmed : Bool
  manage : Bool
  deriving DecidableEq, Repr

inductive Mode where
  | forward | isolate
  deriving DecidableEq, Repr

inductive UnknownPolicy where
  | pass | ignore | reject
  deriving DecidableEq, Repr

/-- The values of BROADCAST_AB and BROADCAST_BA. -/
inductive PassBlock where
  | pass | block
  deriving DecidableEq, Repr

inductive LearnAdmit where
  | none | plain | confirmed | both
  deriving DecidableEq, Repr

/-- The eighteen parameters (R134), in their units. -/
structure Params where
  mode : Mode
  unknownPolicy : UnknownPolicy
  broadcastAB : PassBlock
  broadcastBA : PassBlock
  sresetPass : Bool
  learn : Bool
  learnAdmit : LearnAdmit
  ageLimit : Nat
  retryLimit : Nat
  retryInterval : Nat
  busyLimit : Nat
  busyHold : Nat
  lifetime : Nat
  dupHold : Nat
  plainReserve : Nat
  lowMark : Nat
  lease : Nat
  eventRepeat : Nat
  deriving DecidableEq, Repr

/-- The defaults of R134, with the MODE the START strap gives. -/
def Params.defaults (mode : Mode) : Params where
  mode := mode
  unknownPolicy := .pass
  broadcastAB := .pass
  broadcastBA := .pass
  sresetPass := false
  learn := true
  learnAdmit := .both
  ageLimit := 300
  retryLimit := 4
  retryInterval := 40
  busyLimit := 8
  busyHold := 200
  lifetime := 5000
  dupHold := 2000
  plainReserve := 48
  lowMark := 32
  lease := 30
  eventRepeat := 5

/-- A set of the groups 0..62 (R56, R187): bit g stands for group g. -/
abbrev GroupSet := BitVec 63

/-- A set of the sixteen events (R187): bit i stands for the event of index i. -/
abbrev EventSet := BitVec 16

/-- The staged configuration (R137). -/
structure Staged where
  entries : List StagedEntry
  groupsAB : GroupSet
  groupsBA : GroupSet
  params : Params
  deriving DecidableEq, Repr

/-- The open session (R137); the lease length in seconds, the lease end a moment. -/
structure Session where
  holder : Nat
  side : Side
  lease : Nat
  leaseEnd : Nat
  staged : Staged
  deriving DecidableEq, Repr

/-! ## Queues and tables -/

/-- An entry of a plain queue (R82). -/
structure PlainEntry where
  inSide : Side
  telegram : Telegram
  deriving DecidableEq, Repr

/-- An entry of the duplicate table (R87); the time since last use is the clock less `lastUse`. -/
structure DupEntry where
  source : Nat
  seq : BitVec 4
  arrivalSide : Side
  reply : FinalReply
  lastUse : Nat
  deriving DecidableEq, Repr

/-- An entry of the management request queue (R102). -/
structure Request where
  station : Nat
  side : Side
  seq : BitVec 4
  payload : List Byte
  deriving DecidableEq, Repr

/-! ## Custody records (R107) -/

/-- What a RELAY record carries (R107). -/
inductive Role where
  | response | event | notice
  deriving DecidableEq, Repr

/-- The origin of a record, a RELAY record with its role (R107). -/
inductive Origin where
  | forward
  | relay (role : Role)
  deriving DecidableEq, Repr

/-- The four record states (R110), WAITING with its hold end. -/
inductive RecordState where
  | queued
  | waiting (holdEnd : Nat)
  | sending
  | awaiting
  deriving DecidableEq, Repr

/-- The withdrawal reasons a mark may carry (R107, R121). -/
inductive Mark where
  | purged | expired | unrouted
  deriving DecidableEq, Repr

/-- The reasons with which a record ends undelivered (R123). -/
inductive EndReason where
  | noReply | noAccess | busyLimit | rejected | expired | purged | unrouted | segmentReset
  deriving DecidableEq, Repr

/-- A custody record (R107). Its cell chain holds `payload` behind the stored header. -/
structure Record where
  number : Nat
  origin : Origin
  kind : Kind
  source : Nat
  destination : Nat
  seq : BitVec 4
  inSide : Side
  outSide : Side
  payload : List Byte
  stamp : Nat
  state : RecordState
  attempts : Nat
  busyCount : Nat
  retryLimit : Nat
  busyLimit : Nat
  deadline : Nat
  mark : Option Mark
  rejectReason : Option Byte
  deriving DecidableEq, Repr

/-! ## Management Unit and Event Unit -/

/-- The kind of a restart (R166). -/
inductive RestartKind where
  | queues | full
  deriving DecidableEq, Repr

/-- Restart pending (R152): its kind and the record number of its response. -/
structure RestartPending where
  kind : RestartKind
  record : Nat
  deriving DecidableEq, Repr

/-- The EVENT record and its sent set (R173). -/
structure EventFlight where
  record : Nat
  sent : EventSet
  deriving DecidableEq, Repr

/-- The repeat timer (R173). -/
inductive RepeatTimer where
  | stopped
  | running (expiry : Nat)
  | expired
  deriving DecidableEq, Repr

/-- The counter bank (R171): 26 counters of 32 bits, by their index (R187). -/
abbrev CounterBank := Vector (BitVec 32) 26

/-! ## The whole state -/

/-- The relay's state and the commands that wait. -/
structure State where
  /-- the clock, in microseconds (log 1) -/
  now : Nat
  /-- RESET_N is held low (R189) -/
  held : Bool
  /-- the strap pins as last seen (R188, log 22) -/
  pins : Straps
  /-- OWN, sampled (R2) -/
  own : Nat
  /-- the sampled RATE code (R3) -/
  rate : BitVec 2
  portA : Port
  portB : Port
  /-- the Station Table in ascending station number (R43) -/
  stations : List StationEntry
  /-- the next aging tick (R69) -/
  nextTick : Nat
  /-- the free count of the cell pool (R74) -/
  free : Nat
  queueA : List PlainEntry
  queueB : List PlainEntry
  /-- the duplicate table in ascending source (R87) -/
  dups : List DupEntry
  /-- the records in use in ascending record number (R106) -/
  records : List Record
  /-- the own-sequence counter (R16) -/
  ownSeq : BitVec 4
  groupsAB : GroupSet
  groupsBA : GroupSet
  params : Params
  epoch : BitVec 16
  session : Option Session
  requests : List Request
  restart : Option RestartPending
  /-- the record named in restart pending has ended: the restart is to be carried out (R167, log 3) -/
  restartDue : Bool
  /-- the RESPONSE claim's waiting place is taken (R78) -/
  respClaim : Bool
  /-- the EVENT claim's waiting place is taken (R78) -/
  eventClaim : Bool
  /-- cells or a descriptor were released: the waiting claims are to be tried (R78, log 3) -/
  claimsDue : Bool
  /-- a request has become the head: it is to be tested (R153, log 3) -/
  headDue : Bool
  counters : CounterBank
  latched : EventSet
  mask : EventSet
  reported : EventSet
  /-- the event station and the event side (R173) -/
  eventStation : Option (Nat × Side)
  eventRecord : Option EventFlight
  repeatTimer : RepeatTimer
  /-- the commands that wait, first in first out -/
  pending : List Instr
  deriving DecidableEq, Repr

/-- Why a step could fault. No meaning of this model faults: the spec names no condition that stops the part. -/
inductive Fault where
  /-- Raised by no step. Safe: a state that cannot arise would stop here rather than go on. -/
  | neverRaised
  deriving DecidableEq, Repr

/-- Why a step could be refused. -/
inductive Refusal where
  /-- Raised by an arm of `exec` whose command has no meaning yet; no arm is left so. Safe: the machine stops. -/
  | notModelled (mnemonic : String)
  deriving DecidableEq, Repr

/-- A port after hardware reset (R19), with the LINE_OK level found at the moment given. -/
def Port.afterReset (now : Nat) (lineOk : Bool) : Port where
  state := .down
  choice := none
  lossCount := 0
  deferral := none
  lastClass := .plain
  returnState := none
  awaited := none
  replyTimer := .stopped
  staging := .empty
  lineOk := lineOk
  lineOkSince := now
  quietSince := now
  reply := none
  txd := []

/-- The machine right after hardware reset. The straps stand at the levels of their pull-ups (log 5), which give OWN 1983
with STRAP_INVALID, 500 kbit/s and MODE FORWARD (R188); LINE_OK is low on both sides (log 6). -/
def State.reset : State where
  now := 0
  held := false
  pins := { station := 0x7FF#11, rate := 3#2, start := true }
  own := 1983
  rate := 3#2
  portA := Port.afterReset 0 false
  portB := Port.afterReset 0 false
  stations := []
  nextTick := 1000000
  free := 384
  queueA := []
  queueB := []
  dups := []
  records := []
  ownSeq := 0#4
  groupsAB := BitVec.allOnes 63
  groupsBA := BitVec.allOnes 63
  params := Params.defaults .forward
  epoch := 0#16
  session := none
  requests := []
  restart := none
  restartDue := false
  respClaim := false
  eventClaim := false
  claimsDue := false
  headDue := false
  counters := Vector.replicate 26 0#32
  latched := 0x0003#16
  mask := 0xFFFF#16
  reported := 0x0000#16
  eventStation := none
  eventRecord := none
  repeatTimer := .stopped
  pending := []

end Sys2Proof.Machine
end

