-- ==== Sys2Proof/Machine/Telegram.lean ====
section
/-! DEFINITION. Telegrams on the line: the check word (R7), the header's bits (R184), the tests of a reception (R8, R9),
and the byte order of numbers in payloads (chapter 11, ENCODING). -/

namespace Sys2Proof.Machine

/-! ## Numbers in bytes -/

/-- The `k` low bytes of a number, high byte first (chapter 11, ENCODING). -/
def beBytes : Nat → Nat → List Byte
  | 0, _ => []
  | k + 1, n => BitVec.ofNat 8 (n / 256 ^ k) :: beBytes k n

/-- The number that bytes hold, high byte first. -/
def beNat (bytes : List Byte) : Nat :=
  bytes.foldl (fun acc b => acc * 256 + b.toNat) 0

/-! ## Kinds (R5, R184) -/

/-- The kind codes of R184. -/
def Kind.code : Kind → BitVec 4
  | .pdata => 0x1#4
  | .cdata => 0x2#4
  | .mreq => 0x3#4
  | .mrsp => 0x4#4
  | .event => 0x5#4
  | .notice => 0x6#4
  | .sreset => 0x7#4
  | .ack => 0x8#4
  | .busy => 0x9#4
  | .reject => 0xA#4

/-- The kind a code names; 0h and Bh..Fh name none (R184). -/
def Kind.ofCode (c : BitVec 4) : Option Kind :=
  match c.toNat with
  | 1 => some .pdata
  | 2 => some .cdata
  | 3 => some .mreq
  | 4 => some .mrsp
  | 5 => some .event
  | 6 => some .notice
  | 7 => some .sreset
  | 8 => some .ack
  | 9 => some .busy
  | 10 => some .reject
  | _ => none

/-- The confirmed kinds (R5). -/
def Kind.isConfirmed : Kind → Bool
  | .cdata | .mreq | .mrsp | .event | .notice => true
  | .pdata | .sreset | .ack | .busy | .reject => false

/-- The reply kinds (R5). -/
def Kind.isReply : Kind → Bool
  | .ack | .busy | .reject => true
  | .pdata | .cdata | .mreq | .mrsp | .event | .notice | .sreset => false

/-! ## Station numbers (R1) -/

/-- An individual station number (R1). -/
def isIndividual (n : Nat) : Bool := 1 ≤ n && n ≤ 1983

/-- A group number (R1). -/
def isGroup (n : Nat) : Bool := 1984 ≤ n && n ≤ 2046

/-- The broadcast number (R1). -/
def broadcast : Nat := 2047

/-! ## The check word (R7) -/

/-- One bit of R7's remainder: x^12, x^5 and 1 are combined in when the register's top bit and the data bit differ. -/
def crcBit (reg : BitVec 16) (dataBit : Bool) : BitVec 16 :=
  if reg.msb ^^ dataBit then (reg <<< 1) ^^^ 0x1021#16 else reg <<< 1

/-- One byte of R7's remainder, most significant bit first. -/
def crcByte (reg : BitVec 16) (b : Byte) : BitVec 16 :=
  [7, 6, 5, 4, 3, 2, 1, 0].foldl (fun r i => crcBit r (b.getLsbD i)) reg

/-- The check word of header and payload (R7): the register starts at all ones and is sent as it stands. -/
def checkWord (bytes : List Byte) : BitVec 16 :=
  bytes.foldl crcByte 0xFFFF#16

/-! ## Telegrams as bytes -/

/-- The 40 header bits in the order of R184. -/
def headerBits (t : Telegram) : BitVec 40 :=
  BitVec.ofNat 11 t.dst ++ BitVec.ofNat 11 t.src ++ t.kind.code ++ t.seq ++ 0#2 ++ BitVec.ofNat 8 t.payload.length

/-- The five header bytes (R184). -/
def headerBytes (t : Telegram) : List Byte :=
  let h := headerBits t
  [h.extractLsb' 32 8, h.extractLsb' 24 8, h.extractLsb' 16 8, h.extractLsb' 8 8, h.extractLsb' 0 8]

/-- A telegram as it stands on the line: header, payload and check word, high byte first (R184, R7). -/
def Telegram.toLine (t : Telegram) : List Byte :=
  let body := headerBytes t ++ t.payload
  let crc := checkWord body
  body ++ [crc.extractLsb' 8 8, crc.extractLsb' 0 8]

/-- The conditions of R9 on the fields read from a header and a payload; the kind is already a defined one. -/
def fieldsOk (reserved : BitVec 2) (len : Nat) (t : Telegram) : Bool :=
  len ≤ 240 && len == t.payload.length
    && reserved == 0#2
    && isIndividual t.src
    && t.dst != 0
    && !((t.kind.isConfirmed || t.kind.isReply) && 1984 ≤ t.dst)
    && (match t.kind with
        | .ack | .busy => len == 0
        | .reject => len == 1
        | .sreset => t.dst == broadcast && len == 0
        | _ => true)

/-- The telegram in a header and payload, when R9 holds. -/
def parseBody : List Byte → Option Telegram
  | b0 :: b1 :: b2 :: b3 :: b4 :: payload =>
    let h : BitVec 40 := b0 ++ b1 ++ b2 ++ b3 ++ b4
    match Kind.ofCode (h.extractLsb' 14 4) with
    | none => none
    | some kind =>
      let t : Telegram :=
        { dst := (h.extractLsb' 29 11).toNat, src := (h.extractLsb' 18 11).toNat, kind := kind,
          seq := h.extractLsb' 10 4, payload := payload }
      if fieldsOk (h.extractLsb' 8 2) b4.toNat t then some t else none
  | _ => none

/-- What a port's checks find in a reception (R8, R9). -/
inductive Checked where
  | checkError
  | formatError
  | wellFormed (t : Telegram)
  deriving DecidableEq, Repr

/-- The checks of R8 and R9: size, check word, well-formedness. -/
def checkReception (bytes : List Byte) : Checked :=
  if bytes.length < 7 || Config.stagingBytes < bytes.length then .formatError
  else
    let body := bytes.take (bytes.length - 2)
    if (checkWord body).toNat = beNat (bytes.drop (bytes.length - 2)) then
      match parseBody body with
      | some t => .wellFormed t
      | none => .formatError
    else .checkError

/-! ## Cells of a stored telegram (R75) -/

/-- The cells a payload length needs (R75): an 8-byte stored header and the payload, in cells of 64 bytes. -/
def cellsFor (len : Nat) : Nat :=
  if len ≤ 56 then 1 else if len ≤ 120 then 2 else if len ≤ 184 then 3 else 4

/-! ## Small codes (R184, R185) -/

/-- The REJECT reason codes (R184). -/
def RejectReason.code : RejectReason → Byte
  | .notAdmitted => 0x01#8
  | .pathDown => 0x02#8
  | .unknownDest => 0x03#8
  | .noService => 0x04#8

/-- The NOTICE reason codes (R184). -/
def EndReason.code : EndReason → Byte
  | .noReply => 0x01#8
  | .noAccess => 0x02#8
  | .busyLimit => 0x03#8
  | .rejected => 0x04#8
  | .expired => 0x05#8
  | .purged => 0x06#8
  | .unrouted => 0x07#8
  | .segmentReset => 0x08#8

/-- The side codes (R185). -/
def sideCode : Side → Byte
  | .a => 0x00#8
  | .b => 0x01#8

/-- The side a code names (R185). -/
def sideOfCode (c : Byte) : Option Side :=
  match c.toNat with
  | 0 => some .a
  | 1 => some .b
  | _ => none

/-- The yes and no codes (R185). -/
def flagCode (b : Bool) : Byte := if b then 0x01#8 else 0x00#8

/-- The flag a code names (R185). -/
def flagOfCode (c : Byte) : Option Bool :=
  match c.toNat with
  | 0 => some false
  | 1 => some true
  | _ => none

/-- The telegram of a reply (R6, R18). -/
def Reply.telegram (own : Nat) (r : Reply) : Telegram :=
  match r.kind with
  | .busy => { dst := r.addressee, src := own, kind := .busy, seq := r.seq, payload := [] }
  | .final .ack => { dst := r.addressee, src := own, kind := .ack, seq := r.seq, payload := [] }
  | .final (.reject reason) =>
    { dst := r.addressee, src := own, kind := .reject, seq := r.seq, payload := [reason.code] }

end Sys2Proof.Machine
end

