-- ==== Sys2Proof/Machine/Operands.lean ====
section
/-! DEFINITION. The operands of management requests (R183, R185, R186, R187): commands by their codes, arguments read from
a payload, parameter values, outcome codes and the fields of results. -/

namespace Sys2Proof.Machine

/-! ## Commands (R186) -/

/-- The eighteen management commands (R155, R186). -/
inductive Command where
  | identify | readStations | readConfig | readCounters | readCustody | readEvents
  | openSession | closeSession | stageStation | unstageStation | stageGroups | stageParams | commit
  | purge | restart
  | setEventStation | setEventMask | clearEvents
  deriving DecidableEq, Repr

/-- The command a code names (R186). -/
def Command.ofCode (c : Byte) : Option Command :=
  match c.toNat with
  | 0x01 => some .identify
  | 0x02 => some .readStations
  | 0x03 => some .readConfig
  | 0x04 => some .readCounters
  | 0x05 => some .readCustody
  | 0x06 => some .readEvents
  | 0x10 => some .openSession
  | 0x11 => some .closeSession
  | 0x12 => some .stageStation
  | 0x13 => some .unstageStation
  | 0x14 => some .stageGroups
  | 0x15 => some .stageParams
  | 0x16 => some .commit
  | 0x20 => some .purge
  | 0x21 => some .restart
  | 0x30 => some .setEventStation
  | 0x31 => some .setEventMask
  | 0x32 => some .clearEvents
  | _ => none

/-- The command of a request: none when the payload is too short for the common part or the code is unknown (R157). -/
def Request.command (q : Request) : Option Command :=
  match q.payload with
  | _ :: _ :: code :: _ => Command.ofCode code
  | _ => none

/-! ## Arguments (R183) -/

/-- The argument bytes of a request, from byte 3 on (R185). -/
def Request.args (q : Request) : List Byte := q.payload.drop 3

/-- The argument of `width` bytes at offset `off` of the argument bytes; none when it is cut short by LEN (R183). -/
def argAt (args : List Byte) (off width : Nat) : Option Nat :=
  if off + width ≤ args.length then some (beNat ((args.drop off).take width)) else none

/-- An argument in its range: none when it is missing or out of its range (R183). -/
def argIn (args : List Byte) (off width : Nat) (ok : Nat → Bool) : Option Nat :=
  match argAt args off width with
  | some v => if ok v then some v else none
  | none => none

/-! ## Outcomes (R159, R185) -/

/-- The eleven outcome codes (R159). -/
inductive OutcomeCode where
  | done | resumed | sessionHeld | notHolder | noSession | stale | notManager | badArgument | tableFull | notFound
  | unknownCommand
  deriving DecidableEq, Repr

/-- The codes of R185. -/
def OutcomeCode.code : OutcomeCode → Byte
  | .done => 0x00#8
  | .resumed => 0x01#8
  | .sessionHeld => 0x02#8
  | .notHolder => 0x03#8
  | .noSession => 0x04#8
  | .stale => 0x05#8
  | .notManager => 0x06#8
  | .badArgument => 0x07#8
  | .tableFull => 0x08#8
  | .notFound => 0x09#8
  | .unknownCommand => 0x0A#8

/-- The outcome of a request and the bytes of its results (R156). -/
structure Answer where
  outcome : OutcomeCode
  results : List Byte
  deriving DecidableEq, Repr

/-- An outcome without results. -/
def plainAnswer (o : OutcomeCode) : Answer := { outcome := o, results := [] }

/-- BAD_ARGUMENT with the number of the first argument, or pair, that fails (R183). -/
def badArgument (i : Nat) : Answer := { outcome := .badArgument, results := [BitVec.ofNat 8 i] }

/-- DONE with results. -/
def doneWith (results : List Byte) : Answer := { outcome := .done, results := results }

/-- The MRSP payload of an executed request (R156, R185); missing tag and command bytes are zero (R157). -/
def responsePayload (q : Request) (a : Answer) : List Byte :=
  [q.payload.getD 0 0, q.payload.getD 1 0, q.seq.setWidth 8, q.payload.getD 2 0, a.outcome.code] ++ a.results

/-! ## Parameters (R134, R187) -/

def Mode.code : Mode → Nat
  | .forward => 0
  | .isolate => 1

def UnknownPolicy.code : UnknownPolicy → Nat
  | .pass => 0
  | .ignore => 1
  | .reject => 2

def PassBlock.code : PassBlock → Nat
  | .pass => 0
  | .block => 1

def LearnAdmit.code : LearnAdmit → Nat
  | .none => 0
  | .plain => 1
  | .confirmed => 2
  | .both => 3

def boolCode (b : Bool) : Nat := if b then 1 else 0

/-- A value within a range. -/
def inRange (low high v : Nat) : Option Nat := if low ≤ v ∧ v ≤ high then some v else none

/-- A parameter set with the parameter of an identifier at a value; none when the identifier names no parameter or the
value lies outside its range (R145, R187). -/
def Params.set (p : Params) (identifier v : Nat) : Option Params :=
  match identifier with
  | 0x01 => match v with
    | 0 => some { p with mode := .forward }
    | 1 => some { p with mode := .isolate }
    | _ => none
  | 0x02 => match v with
    | 0 => some { p with unknownPolicy := .pass }
    | 1 => some { p with unknownPolicy := .ignore }
    | 2 => some { p with unknownPolicy := .reject }
    | _ => none
  | 0x03 => match v with
    | 0 => some { p with broadcastAB := .pass }
    | 1 => some { p with broadcastAB := .block }
    | _ => none
  | 0x04 => match v with
    | 0 => some { p with broadcastBA := .pass }
    | 1 => some { p with broadcastBA := .block }
    | _ => none
  | 0x05 => match v with
    | 0 => some { p with sresetPass := false }
    | 1 => some { p with sresetPass := true }
    | _ => none
  | 0x06 => match v with
    | 0 => some { p with learn := false }
    | 1 => some { p with learn := true }
    | _ => none
  | 0x07 => match v with
    | 0 => some { p with learnAdmit := .none }
    | 1 => some { p with learnAdmit := .plain }
    | 2 => some { p with learnAdmit := .confirmed }
    | 3 => some { p with learnAdmit := .both }
    | _ => none
  | 0x08 => (inRange 10 3600 v).map (fun v => { p with ageLimit := v })
  | 0x09 => (inRange 1 15 v).map (fun v => { p with retryLimit := v })
  | 0x0A => (inRange 10 2000 v).map (fun v => { p with retryInterval := v })
  | 0x0B => (inRange 0 15 v).map (fun v => { p with busyLimit := v })
  | 0x0C => (inRange 10 5000 v).map (fun v => { p with busyHold := v })
  | 0x0D => (inRange 100 60000 v).map (fun v => { p with lifetime := v })
  | 0x0E => (inRange 100 10000 v).map (fun v => { p with dupHold := v })
  | 0x0F => (inRange 8 192 v).map (fun v => { p with plainReserve := v })
  | 0x10 => (inRange 0 383 v).map (fun v => { p with lowMark := v })
  | 0x11 => (inRange 1 255 v).map (fun v => { p with lease := v })
  | 0x12 => (inRange 1 60 v).map (fun v => { p with eventRepeat := v })
  | _ => none

/-- The eighteen values in identifier order (R186, R187). -/
def Params.values (p : Params) : List Nat :=
  [p.mode.code, p.unknownPolicy.code, p.broadcastAB.code, p.broadcastBA.code, boolCode p.sresetPass, boolCode p.learn,
   p.learnAdmit.code, p.ageLimit, p.retryLimit, p.retryInterval, p.busyLimit, p.busyHold, p.lifetime, p.dupHold,
   p.plainReserve, p.lowMark, p.lease, p.eventRepeat]

/-- A list of pairs staged in order from pair `i` on; the number of the first bad pair, a pair cut short by LEN among
them (R145). -/
def stagePairs : Nat → List Byte → Params → Except Nat Params
  | _, [], p => .ok p
  | i, identifier :: high :: low :: rest, p =>
    match p.set identifier.toNat (beNat [high, low]) with
    | some p' => stagePairs (i + 1) rest p'
    | none => .error i
  | i, _, _ => .error i

/-! ## Fields of results (R185, R186) -/

/-- A station number that may be none: 0000h for none (R183). -/
def stationBytes (n : Option Nat) : List Byte := beBytes 2 (n.getD 0)

/-- A group set as 8 bytes (R187). -/
def groupBytes (g : GroupSet) : List Byte := beBytes 8 g.toNat

/-- An event set as 2 bytes (R187). -/
def eventSetBytes (e : EventSet) : List Byte := beBytes 2 e.toNat

/-- A station entry of a READ_STATIONS result, 9 bytes; FFFFh stands for the idle seconds of a LOADED entry (R185). -/
def stationEntryBytes (e : StationEntry) : List Byte :=
  let (origin, idle) := match e.origin with
    | .loaded => (0x00#8, 0xFFFF)
    | .learned idle => (0x01#8, idle)
  beBytes 2 e.station ++ [sideCode e.side, origin, flagCode e.admitPlain, flagCode e.admitConfirmed, flagCode e.manage]
    ++ beBytes 2 idle

/-- A station entry of 6 bytes, as READ_CONFIG returns it (R185, R186). -/
def stagedEntryBytes (e : StagedEntry) : List Byte :=
  beBytes 2 e.station ++ [sideCode e.side, flagCode e.admitPlain, flagCode e.admitConfirmed, flagCode e.manage]

/-- The origin and role codes of a record (R185). -/
def Origin.codes : Origin → List Byte
  | .forward => [0x00#8, 0xFF#8]
  | .relay .response => [0x01#8, 0x00#8]
  | .relay .event => [0x01#8, 0x01#8]
  | .relay .notice => [0x01#8, 0x02#8]

/-- The record state codes (R185). -/
def RecordState.code : RecordState → Byte
  | .queued => 0x00#8
  | .waiting _ => 0x01#8
  | .sending => 0x02#8
  | .awaiting => 0x03#8

/-- The mark codes, FFh when absent (R185). -/
def markCode : Option Mark → Byte
  | none => 0xFF#8
  | some .purged => 0x01#8
  | some .expired => 0x02#8
  | some .unrouted => 0x03#8

/-- A record summary, 15 bytes (R185). -/
def recordSummary (r : Record) : List Byte :=
  [BitVec.ofNat 8 r.number] ++ r.origin.codes ++ [r.kind.code.setWidth 8] ++ beBytes 2 r.source ++ beBytes 2 r.destination
    ++ [r.seq.setWidth 8, sideCode r.inSide, sideCode r.outSide, r.state.code, BitVec.ofNat 8 r.attempts,
        BitVec.ofNat 8 r.busyCount, markCode r.mark]

/-- The station entry a STAGE_STATION carries in its 6 argument bytes (R142, R185): none when a field is not one of its
defined codes, or the station is not individual or is OWN. -/
def stagedEntryOf (own : Nat) : List Byte → Option StagedEntry
  | s1 :: s0 :: side :: plain :: confirmed :: manage :: _ =>
    let station := beNat [s1, s0]
    match sideOfCode side, flagOfCode plain, flagOfCode confirmed, flagOfCode manage with
    | some side, some plain, some confirmed, some manage =>
      if isIndividual station && station != own then
        some { station := station, side := side, admitPlain := plain, admitConfirmed := confirmed, manage := manage }
      else none
    | _, _, _, _ => none
  | _ => none

/-- The listing of a table sorted by a key (R161): the entries at or above `first`, at most `count` of them, and whether
further ones follow. -/
def listing (key : α → Nat) (first count : Nat) (table : List α) : List α × Bool :=
  let found := table.filter (fun e => first ≤ key e)
  (found.take count, count < found.length)

end Sys2Proof.Machine
end

