-- ==== Sys2Proof/Machine/Flags.lean ====
section
/-! DEFINITION. The flags of the relay: events and the latched set (R174, R187), and the counter bank (R171, R187). -/

namespace Sys2Proof.Machine

/-! ## Events -/

/-- The sixteen events (R174). -/
inductive Event where
  | restarted
  | strapInvalid
  | lineDown (side : Side)
  | lineUp (side : Side)
  | segmentReset (side : Side)
  | sessionLapsed
  | committed
  | stationMoved
  | sourceConflict
  | learnFull
  | cellsLow
  | noticeLost
  | responseLost
  deriving DecidableEq, Repr

/-- The event indices of R187. -/
def Event.index : Event → Nat
  | .restarted => 0
  | .strapInvalid => 1
  | .lineDown .a => 2
  | .lineDown .b => 3
  | .lineUp .a => 4
  | .lineUp .b => 5
  | .segmentReset .a => 6
  | .segmentReset .b => 7
  | .sessionLapsed => 8
  | .committed => 9
  | .stationMoved => 10
  | .sourceConflict => 11
  | .learnFull => 12
  | .cellsLow => 13
  | .noticeLost => 14
  | .responseLost => 15

/-- The set that holds one event (R187). -/
def Event.bit (e : Event) : EventSet := 1#16 <<< e.index

/-- Latch an event (R174): it is added to the latched set. -/
def latch (e : Event) (s : State) : State :=
  { s with latched := s.latched ||| e.bit }

/-- The latched and unmasked events (R175). -/
def State.unmasked (s : State) : EventSet := s.latched &&& s.mask

/-! ## Counters -/

/-- The twenty-six counters (R171). -/
inductive Counter where
  | rxGood (side : Side)
  | rxCheckErr (side : Side)
  | rxFormatErr (side : Side)
  | txTelegrams (side : Side)
  | contentionLosses (side : Side)
  | plainDropped (side : Side)
  | busyGiven (side : Side)
  | rejectGiven (side : Side)
  | custodyAccepted
  | delivered
  | noticesCreated
  | noticesLost
  | responsesLost
  | duplicatesAnswered
  | dupEvicted
  | sourceConflicts
  | learnFull
  | custodyDiscarded
  deriving DecidableEq, Repr

/-- The counter indices of R187. -/
def Counter.index : Counter → Fin 26
  | .rxGood .a => 0
  | .rxCheckErr .a => 1
  | .rxFormatErr .a => 2
  | .txTelegrams .a => 3
  | .contentionLosses .a => 4
  | .plainDropped .a => 5
  | .busyGiven .a => 6
  | .rejectGiven .a => 7
  | .rxGood .b => 8
  | .rxCheckErr .b => 9
  | .rxFormatErr .b => 10
  | .txTelegrams .b => 11
  | .contentionLosses .b => 12
  | .plainDropped .b => 13
  | .busyGiven .b => 14
  | .rejectGiven .b => 15
  | .custodyAccepted => 16
  | .delivered => 17
  | .noticesCreated => 18
  | .noticesLost => 19
  | .responsesLost => 20
  | .duplicatesAnswered => 21
  | .dupEvicted => 22
  | .sourceConflicts => 23
  | .learnFull => 24
  | .custodyDiscarded => 25

/-- A counter's value. -/
def State.counter (s : State) (c : Counter) : BitVec 32 := s.counters[c.index]

/-- A count advanced by `n`, staying at 4,294,967,295 once it is reached (R171). -/
def saturatingAdd (v : BitVec 32) (n : Nat) : BitVec 32 :=
  if v.toNat + n ≤ 4294967295 then BitVec.ofNat 32 (v.toNat + n) else BitVec.allOnes 32

/-- Count a counter `n` times (00_scope.md, Counting). -/
def countBy (c : Counter) (n : Nat) (s : State) : State :=
  { s with counters := s.counters.set c.index (saturatingAdd s.counters[c.index] n) }

/-- Count a counter once. -/
def count (c : Counter) (s : State) : State := countBy c 1 s

/-- Every counter 0 but the one given, which keeps its value (R168). -/
def clearCountersBut (c : Counter) (s : State) : State :=
  { s with counters := (Vector.replicate 26 0#32).set c.index s.counters[c.index] }

/-- The counters from `first`, `n` of them, set to 0 (R163). -/
def clearCounters (first n : Nat) (s : State) : State :=
  { s with counters := s.counters.mapIdx (fun i v => if first ≤ i ∧ i < first + n then 0#32 else v) }

end Sys2Proof.Machine
end

