-- ==== Sys2Proof/Machine/Ops.lean ====
section
/-! DEFINITION. The named operations every block shares: the clock, the two sides, ordered tables, the cell pool, the
descriptors and the records in them, and the transmit arbiter. -/

namespace Sys2Proof.Machine

/-! ## The clock (log 1) -/

/-- Time passes. -/
def elapse (dt : Nat) (s : State) : State := { s with now := s.now + dt }

/-- The moment `t` arrives; a moment already past leaves the clock (log 1). -/
def reach (t : Nat) (s : State) : State := { s with now := max s.now t }

/-- The bit time in microseconds at the sampled rate (R3). -/
def State.bitTime (s : State) : Nat :=
  match s.rate.toNat with
  | 0 => 16
  | 1 => 8
  | 2 => 4
  | _ => 2

/-! ## The two sides -/

/-- The port of a side. -/
def State.port (s : State) : Side → Port
  | .a => s.portA
  | .b => s.portB

/-- Put a port's state. -/
def setPort (x : Side) (p : Port) (s : State) : State :=
  match x with
  | .a => { s with portA := p }
  | .b => { s with portB := p }

/-- The plain queue of an out side (R82). -/
def State.queue (s : State) : Side → List PlainEntry
  | .a => s.queueA
  | .b => s.queueB

/-- Put a plain queue. -/
def setQueue (x : Side) (q : List PlainEntry) (s : State) : State :=
  match x with
  | .a => { s with queueA := q }
  | .b => { s with queueB := q }

/-- TXEN of a port (chapter 11, PINS; R189): high only while the port sends, low in hardware reset. -/
def State.txen (s : State) (x : Side) : Bool :=
  !s.held && ((s.port x).state == .sending || (s.port x).state == .replying)

/-! ## Tables kept in ascending order of a key -/

/-- Put an entry in its place; it takes the place of an entry with the same key. -/
def insertBy (key : α → Nat) (a : α) : List α → List α
  | [] => [a]
  | b :: l =>
    if key a < key b then a :: b :: l
    else if key a = key b then a :: l
    else b :: insertBy key a l

/-! ## The cell pool -/

/-- A granted claim takes its cells (R76) and latches CELLS_LOW when it takes the free count from LOW_MARK or more to
less (R81). -/
def claimCells (n : Nat) (s : State) : State :=
  let low := s.params.lowMark ≤ s.free ∧ s.free - n < s.params.lowMark
  { s with free := s.free - n, latched := if low then s.latched ||| Event.cellsLow.bit else s.latched }

/-- A release returns cells to the pool (R79); the waiting claims are then to be tried (R78). -/
def releaseCells (n : Nat) (s : State) : State :=
  { s with free := s.free + n, claimsDue := true }

/-- The cells of a plain queue entry. -/
def PlainEntry.cells (e : PlainEntry) : Nat := cellsFor e.telegram.payload.length

/-- The cells of a record. -/
def Record.cells (r : Record) : Nat := cellsFor r.payload.length

/-- The cells of a queued management request. -/
def Request.cells (q : Request) : Nat := cellsFor q.payload.length

/-- The cells of several holders. -/
def sumCells (cells : α → Nat) (l : List α) : Nat := (l.map cells).sum

/-! ## Records and descriptors -/

/-- The record a descriptor holds. -/
def State.record? (s : State) (n : Nat) : Option Record := s.records.find? (fun r => r.number == n)

/-- Free descriptors (R106). -/
def State.freeDescriptors (s : State) : Nat := Config.descriptors - s.records.length

/-- The lowest-numbered free descriptor (R106). -/
def State.lowestFree (s : State) : Nat :=
  ((List.range Config.descriptors).find? (fun n => s.records.all (fun r => r.number != n))).getD 0

/-- A stamp newer than that of every record held (R108). -/
def State.newStamp (s : State) : Nat := s.records.foldr (fun r m => max (r.stamp + 1) m) 0

/-- Change the record with a number. -/
def updateRecord (n : Nat) (f : Record → Record) (s : State) : State :=
  { s with records := s.records.map (fun r => if r.number = n then f r else r) }

/-- Free the descriptor of a record (R106). -/
def removeRecord (n : Nat) (s : State) : State :=
  { s with records := s.records.filter (fun r => r.number != n) }

/-- Put a new record in its descriptor. -/
def insertRecord (r : Record) (s : State) : State :=
  { s with records := insertBy Record.number r s.records }

/-- The kind of the telegram a RELAY record carries (R17). -/
def Role.kind : Role → Kind
  | .response => .mrsp
  | .event => .event
  | .notice => .notice

/-- A new RELAY record of role RESPONSE or EVENT (R109); its cells are already claimed. -/
def newRelayRecord (role : Role) (destination : Nat) (side : Side) (payload : List Byte) (s : State) : Record where
  number := s.lowestFree
  origin := .relay role
  kind := role.kind
  source := s.own
  destination := destination
  seq := s.ownSeq
  inSide := side
  outSide := side
  payload := payload
  stamp := s.newStamp
  state := .queued
  attempts := 0
  busyCount := 0
  retryLimit := s.params.retryLimit
  busyLimit := s.params.busyLimit
  deadline := s.now + s.params.lifetime * Config.millisecond
  mark := none
  rejectReason := none

/-- Place a new RELAY record; the own-sequence counter advances (R16, R109). -/
def placeRelayRecord (role : Role) (destination : Nat) (side : Side) (payload : List Byte) (s : State) : State :=
  { insertRecord (newRelayRecord role destination side payload s) s with ownSeq := s.ownSeq + 1 }

/-- The telegram of a record. -/
def Record.telegram (r : Record) : Telegram where
  dst := r.destination
  src := r.source
  kind := r.kind
  seq := r.seq
  payload := r.payload

/-! ## The transmit arbiter (R26, R27, R111, R112) -/

/-- A record is eligible when it is QUEUED and no older record with its out side and destination is held (R111). -/
def State.eligible (s : State) (r : Record) : Bool :=
  r.state == .queued
    && s.records.all (fun q => !(q.outSide == r.outSide && q.destination == r.destination && q.stamp < r.stamp))

/-- The oldest of several records. -/
def oldest : List Record → Option Record
  | [] => none
  | r :: l =>
    match oldest l with
    | none => some r
    | some q => if q.stamp < r.stamp then some q else some r

/-- The oldest eligible record with out side X (R112). -/
def State.candidate (s : State) (x : Side) : Option Record :=
  oldest (s.records.filter (fun r => r.outSide == x && s.eligible r))

/-- A port takes a candidate (R27). -/
def Port.choose (c : Choice) (cls : TrafficClass) (p : Port) : Port :=
  { p with state := .defer, choice := some c, lastClass := cls, lossCount := 0, deferral := some 1 }

/-- The port takes a record, and the record is SENDING (R27, R113). -/
def chooseRecord (x : Side) (r : Record) (s : State) : State :=
  updateRecord r.number (fun q => { q with state := .sending })
    (setPort x ((s.port x).choose (.record r.number) .confirmed) s)

/-- The port takes the head of its plain queue (R27). -/
def choosePlain (x : Side) (s : State) : State :=
  setPort x ((s.port x).choose .plain .plain) s

/-- The transmit arbiter of port X runs when the port is IDLE (R26). When both candidates exist it takes the class that
is not the last class served (R27). -/
def arbitrate (x : Side) (s : State) : State :=
  if (s.port x).state = .idle then
    match s.candidate x, s.queue x with
    | none, [] => s
    | some r, [] => chooseRecord x r s
    | none, _ :: _ => choosePlain x s
    | some r, _ :: _ => if (s.port x).lastClass = .confirmed then choosePlain x s else chooseRecord x r s
  else s

/-- The arbiters of both ports. -/
def arbitrateBoth (s : State) : State := arbitrate .b (arbitrate .a s)

/-! ## Parts of a port's state -/

/-- The port holds no choice (R28). -/
def Port.noChoice (p : Port) : Port := { p with choice := none, deferral := none, lossCount := 0 }

/-- The port drops the choice of a withdrawn record (R32): from DEFER it enters IDLE; in REPLYING its return state
becomes IDLE. In any other state nothing is withdrawn from it. -/
def Port.dropChoice (p : Port) : Port :=
  match p.state with
  | .defer => { p.noChoice with state := .idle }
  | .replying => { p.noChoice with returnState := some .idle }
  | .down | .idle | .sending | .awaitReply => p

/-- The await ends (R36, R37): the timer stops, the awaited record becomes absent, the port enters IDLE. -/
def Port.endAwait (p : Port) : Port := { p with replyTimer := .stopped, awaited := none, state := .idle }

/-- The line's activity has ended (R29): the quiet measure starts and the staging is empty. -/
def Port.lineQuiet (now : Nat) (p : Port) : Port := { p with staging := .empty, quietSince := now }

/-! ## The plain queues -/

/-- The head entry leaves plain queue X and its cells are freed (R33, R31, R79). -/
def releaseHead (x : Side) (s : State) : State :=
  match s.queue x with
  | [] => s
  | e :: rest => releaseCells e.cells (setQueue x rest s)

/-- Plain queue X is flushed (R84): every entry is removed, its cells are freed and PLAIN_DROPPED is counted for it. -/
def flushQueue (x : Side) (s : State) : State :=
  match s.queue x with
  | [] => s
  | e :: rest =>
    countBy (.plainDropped x) (rest.length + 1)
      (releaseCells (sumCells PlainEntry.cells (e :: rest)) (setQueue x [] s))

/-- The plain hand-off toward side Y (R61, R83): dropped when port Y is DOWN, its queue is full or the plain reserve
would be broken (R76), else stored at the tail. -/
def plainHandOff (x : Side) (t : Telegram) (s : State) : State :=
  let y := x.other
  let cells := cellsFor t.payload.length
  if (s.port y).state = .down ∨ Config.plainQueueLimit ≤ (s.queue y).length
      ∨ s.free < cells + s.params.plainReserve then
    count (.plainDropped y) s
  else
    let s1 := claimCells cells s
    arbitrate y (setQueue y (s1.queue y ++ [{ inSide := x, telegram := t }]) s1)

end Sys2Proof.Machine
end

