-- ==== Sys2Proof/Machine/Delivery.lean ====
section
/-! DEFINITION. The Delivery Engine (chapter 7): how records end, the outcomes of an attempt, withdrawal and marks, the
route check and the purge. -/

namespace Sys2Proof.Machine

/-! ## Ending a record -/

/-- The payload of the NOTICE for a record that ended with a reason (R125, R185). -/
def noticePayload (r : Record) (reason : EndReason) : List Byte :=
  beBytes 2 r.destination
    ++ [r.seq.setWidth 8, r.kind.code.setWidth 8, reason.code, BitVec.ofNat 8 r.attempts, BitVec.ofNat 8 r.busyCount]
    ++ (if reason = .rejected then r.rejectReason.toList else [])

/-- The NOTICE record that a failed FORWARD record becomes (R124). -/
def noticeRecord (r : Record) (reason : EndReason) (s : State) : Record :=
  { r with
    origin := .relay .notice
    kind := .notice
    source := s.own
    destination := r.source
    seq := s.ownSeq
    inSide := r.outSide
    outSide := r.inSide
    payload := noticePayload r reason
    stamp := s.newStamp
    state := .queued
    attempts := 0
    busyCount := 0
    retryLimit := s.params.retryLimit
    busyLimit := s.params.busyLimit
    deadline := s.now + s.params.lifetime * Config.millisecond
    mark := none
    rejectReason := none }

/-- The cells beyond the first are freed at a NOTICE conversion (R80). -/
def releaseFurtherCells (r : Record) (s : State) : State :=
  if 1 < r.cells then releaseCells (r.cells - 1) s else s

/-- A FORWARD record that ended undelivered is converted in place to a NOTICE (R124): the record takes its new fields,
the own-sequence counter advances, NOTICES_CREATED is counted and the further cells are freed. -/
def convertToNotice (r : Record) (reason : EndReason) (s : State) : State :=
  let s1 := { updateRecord r.number (fun _ => noticeRecord r reason s) s with ownSeq := s.ownSeq + 1 }
  count .noticesCreated (releaseFurtherCells r s1)

/-- A record is released with its descriptor and cells (R79, R106). -/
def releaseRecord (r : Record) (s : State) : State := releaseCells r.cells (removeRecord r.number s)

/-- The Management Unit is told that a response has ended: a restart pending on it is to be carried out (R126, R167). -/
def tellResponseEnd (n : Nat) (s : State) : State :=
  match s.restart with
  | some p => if p.record = n then { s with restartDue := true } else s
  | none => s

/-- The Event Unit is told of the end of its EVENT record (R176). -/
def tellEventEnd (delivered : Bool) (s : State) : State :=
  match s.eventRecord with
  | some f =>
    { s with
      reported := if delivered then f.sent else s.reported
      eventRecord := none
      repeatTimer := .running (s.now + s.params.eventRepeat * Config.second) }
  | none => s

/-- A RELAY record that ended undelivered is released and its failure handled by its role (R126). -/
def failRelay (r : Record) (role : Role) (s : State) : State :=
  let s1 := releaseRecord r s
  match role with
  | .response => tellResponseEnd r.number (latch .responseLost (count .responsesLost s1))
  | .notice => latch .noticeLost (count .noticesLost s1)
  | .event => tellEventEnd false s1

/-- A record ends undelivered with a reason (R123), its fields as the ending outcome leaves them. -/
def endUndelivered (r : Record) (reason : EndReason) (s : State) : State :=
  match r.origin with
  | .forward => convertToNotice r reason s
  | .relay role => failRelay r role s

/-- A record is delivered (R114, R126). -/
def deliver (r : Record) (s : State) : State :=
  let s1 := releaseRecord r s
  match r.origin with
  | .forward => count .delivered s1
  | .relay .response => tellResponseEnd r.number s1
  | .relay .notice => s1
  | .relay .event => tellEventEnd true s1

/-! ## Outcomes of an attempt -/

/-- The reason a mark carries (R122). -/
def Mark.reason : Mark → EndReason
  | .purged => .purged
  | .expired => .expired
  | .unrouted => .unrouted

/-- The record enters WAITING with a hold of `ms` milliseconds (R119). -/
def holdRecord (r : Record) (ms : Nat) (s : State) : State :=
  updateRecord r.number (fun _ => { r with state := .waiting (s.now + ms * Config.millisecond) }) s

/-- The outcomes of a reply slot (R13). -/
inductive SlotOutcome where
  | ack
  | busy
  | reject (reason : Byte)
  | noReply
  deriving DecidableEq, Repr

/-- A matching BUSY (R115, R122). -/
def outcomeBusy (r : Record) (s : State) : State :=
  let r1 := { r with busyCount := r.busyCount + 1 }
  match r.mark with
  | some m => endUndelivered r1 m.reason s
  | none => if r.busyLimit < r1.busyCount then endUndelivered r1 .busyLimit s else holdRecord r1 s.params.busyHold s

/-- A matching REJECT (R116, R122). -/
def outcomeReject (r : Record) (reason : Byte) (s : State) : State :=
  match r.mark with
  | some m => endUndelivered r m.reason s
  | none => endUndelivered { r with rejectReason := some reason } .rejected s

/-- An attempt that ended with no reply or NO_ACCESS (R117, R118, R122): attempts used advances by one. -/
def outcomeFailed (r : Record) (reason : EndReason) (s : State) : State :=
  let r1 := { r with attempts := r.attempts + 1 }
  match r.mark with
  | some m => endUndelivered r1 m.reason s
  | none =>
    if r.retryLimit ≤ r1.attempts then endUndelivered r1 reason s else holdRecord r1 s.params.retryInterval s

/-- The slot outcome of an awaited record (R114 to R117). -/
def slotOutcome (o : SlotOutcome) (n : Nat) (s : State) : State :=
  match s.record? n with
  | none => s
  | some r =>
    match o with
    | .ack => deliver r s
    | .busy => outcomeBusy r s
    | .reject reason => outcomeReject r reason s
    | .noReply => outcomeFailed r .noReply s

/-- The outcome NO_ACCESS at the 16th contention loss (R118). -/
def outcomeNoAccess (n : Nat) (s : State) : State :=
  match s.record? n with
  | none => s
  | some r => outcomeFailed r .noAccess s

/-- What a slot arrival means for the record it meets (R13): a reply kind that matches by SEQ and DST gives the outcome
of its kind, any other telegram no reply. -/
def matchReply (r : Record) (t : Telegram) : SlotOutcome :=
  if t.seq = r.seq ∧ t.dst = r.source then
    match t.kind with
    | .ack => .ack
    | .busy => .busy
    | .reject => .reject (t.payload.headD 0)
    | _ => .noReply
  else .noReply

/-! ## Withdrawal and marks -/

/-- What a withdrawal cause does to a record (R121). -/
inductive Withdrawal where
  | atOnce
  | marked
  | kept
  deriving DecidableEq, Repr

/-- R121's table: a record on the line is marked, any other is withdrawn at once, a marked one keeps its mark. -/
def State.withdrawal (s : State) (r : Record) : Withdrawal :=
  if r.mark.isSome then .kept
  else
    match r.state with
    | .queued | .waiting _ => .atOnce
    | .awaiting => .marked
    | .sending => if (s.port r.outSide).state = .sending then .marked else .atOnce

/-- The port that has chosen a record drops that choice (R32). -/
def dropRecordChoice (r : Record) (s : State) : State :=
  if (s.port r.outSide).choice = some (.record r.number) then
    setPort r.outSide (s.port r.outSide).dropChoice s
  else s

/-- A withdrawal cause reaches a record (R121). -/
def withdraw (r : Record) (cause : Mark) (s : State) : State :=
  match s.withdrawal r with
  | .atOnce => endUndelivered r cause.reason (dropRecordChoice r s)
  | .marked => updateRecord r.number (fun q => { q with mark := some cause }) s
  | .kept => s

/-- A cause reaches several records, one after another, in ascending record number (log 7). -/
def withdrawAll (cause : Mark) (rs : List Record) (s : State) : State :=
  rs.foldl (fun s r => withdraw r cause s) s

/-! ## Route check and purge -/

/-- The Station Table's entry for a station number (R44). -/
def State.lookup (s : State) (station : Nat) : Option StationEntry :=
  s.stations.find? (fun e => e.station == station)

/-- R127's test of a FORWARD record. -/
def State.unrouted (s : State) (r : Record) : Bool :=
  s.params.mode == .isolate
    || (match s.lookup r.destination with
        | some e => e.side == r.inSide || !e.admitConfirmed
        | none => s.params.unknownPolicy != .pass)

/-- The route check over the FORWARD records chosen (R127), after which the arbiters run (R32). -/
def routeCheck (chosen : Record → Bool) (s : State) : State :=
  arbitrateBoth
    (withdrawAll .unrouted (s.records.filter (fun r => r.origin == .forward && chosen r && s.unrouted r)) s)

/-- The records a purge matches (R128): FORWARD, for the destination or ALL, with the out side if one is named. -/
def purgeMatches (destination : Option Nat) (side : Option Side) (r : Record) : Bool :=
  r.origin == .forward
    && (match destination with | some d => r.destination == d | none => true)
    && (match side with | some x => r.outSide == x | none => true)

/-- The purge (R128). -/
def purgeRecords (destination : Option Nat) (side : Option Side) (s : State) : State :=
  arbitrateBoth (withdrawAll .purged (s.records.filter (purgeMatches destination side)) s)

/-- How many of a purge's records are withdrawn or marked (R128). -/
def purgeCount (w : Withdrawal) (destination : Option Nat) (side : Option Side) (s : State) : Nat :=
  (s.records.filter (fun r => purgeMatches destination side r && s.withdrawal r == w)).length

end Sys2Proof.Machine
end

