-- ==== Sys2Proof/Machine/Stations.lean ====
section
/-! DEFINITION. The Station Table (chapters 3 and 4): learning, moves, aging and the commit merge. -/

namespace Sys2Proof.Machine

/-- Put a station entry in the table. -/
def putStation (e : StationEntry) (s : State) : State :=
  { s with stations := insertBy StationEntry.station e s.stations }

/-- The admit plain flag of LEARN_ADMIT (R64). -/
def LearnAdmit.plainFlag : LearnAdmit → Bool
  | .none | .confirmed => false
  | .plain | .both => true

/-- The admit confirmed flag of LEARN_ADMIT (R64). -/
def LearnAdmit.confirmedFlag : LearnAdmit → Bool
  | .none | .plain => false
  | .confirmed | .both => true

/-- The LEARNED entry created for a new source (R63). -/
def learnedEntry (x : Side) (src : Nat) (s : State) : StationEntry where
  station := src
  side := x
  origin := .learned 0
  admitPlain := s.params.learnAdmit.plainFlag
  admitConfirmed := s.params.learnAdmit.confirmedFlag
  manage := false

/-- The table learns an unknown source, or finds itself full (R63, R65). -/
def learnNew (x : Side) (src : Nat) (s : State) : State :=
  if s.stations.length < Config.stationLimit then putStation (learnedEntry x src s) s
  else latch .learnFull (count .learnFull s)

/-- A LEARNED entry is heard on side X (R66, R67): refreshed there, or moved there with its route check (R68). -/
def learnHeard (x : Side) (e : StationEntry) (s : State) : State :=
  let s1 := putStation { e with side := x, origin := .learned 0 } s
  if e.side = x then s1
  else routeCheck (fun r => r.destination == e.station) (latch .stationMoved s1)

/-- The learning stage (R48): in FORWARD mode with LEARN ON. A LOADED entry is left as it is. -/
def learn (x : Side) (src : Nat) (s : State) : State :=
  if s.params.mode = .forward ∧ s.params.learn = true then
    match s.lookup src with
    | none => learnNew x src s
    | some e =>
      match e.origin with
      | .loaded => s
      | .learned _ => learnHeard x e s
  else s

/-- One entry at an aging tick (R69, R70): absent when its idle seconds reach AGE_LIMIT. -/
def ageEntry (limit : Nat) (e : StationEntry) : Option StationEntry :=
  match e.origin with
  | .loaded => some e
  | .learned idle => if limit ≤ idle + 1 then none else some { e with origin := .learned (idle + 1) }

/-- The aging tick over the table (R69). -/
def ageStations (s : State) : State :=
  { s with stations := s.stations.filterMap (ageEntry s.params.ageLimit) }

/-! ## The commit merge (R71, R147) -/

/-- A staged entry as a LOADED entry (R147, step 1). -/
def StagedEntry.loaded (e : StagedEntry) : StationEntry where
  station := e.station
  side := e.side
  origin := .loaded
  admitPlain := e.admitPlain
  admitConfirmed := e.admitConfirmed
  manage := e.manage

/-- A LOADED entry as a staged entry (R139). -/
def StationEntry.staged (e : StationEntry) : StagedEntry where
  station := e.station
  side := e.side
  admitPlain := e.admitPlain
  admitConfirmed := e.admitConfirmed
  manage := e.manage

/-- The idle seconds of an entry, none for a LOADED one (R42). -/
def StationEntry.idle? (e : StationEntry) : Option Nat :=
  match e.origin with
  | .loaded => none
  | .learned idle => some idle

/-- Whether an entry is LOADED. -/
def StationEntry.isLoaded (e : StationEntry) : Bool := e.origin == .loaded

/-- The first of two LEARNED entries to go when the table overflows (R71, step 2): the larger idle seconds, then the
larger station number. -/
def goesFirst (e f : StationEntry) : Bool :=
  f.idle?.getD 0 < e.idle?.getD 0 || (f.idle?.getD 0 == e.idle?.getD 0 && f.station < e.station)

/-- The entry of a list that goes first (R71, step 2). -/
def firstToGo : List StationEntry → Option StationEntry
  | [] => none
  | e :: l =>
    match firstToGo l with
    | none => some e
    | some f => if goesFirst f e then some f else some e

/-- `n` entries removed by R71, step 2. -/
def dropOverflow : Nat → List StationEntry → List StationEntry
  | 0, l => l
  | n + 1, l =>
    match firstToGo l with
    | none => l
    | some e => dropOverflow n (l.filter (fun f => f.station != e.station))

/-- The table after a commit (R71): the staged entries as LOADED, and the LEARNED entries that keep a place. -/
def mergeStations (staged : List StagedEntry) (table : List StationEntry) : List StationEntry :=
  let loaded := staged.map StagedEntry.loaded
  let learned := table.filter (fun e => !e.isLoaded && staged.all (fun g => g.station != e.station))
  let kept := dropOverflow (loaded.length + learned.length - Config.stationLimit) learned
  kept.foldl (fun l e => insertBy StationEntry.station e l) loaded

end Sys2Proof.Machine
end

