-- ==== Sys2Proof/Machine/Custody.lean ====
section
/-! DEFINITION. The Custody Unit (chapter 6): the duplicate table and the three reply decisions. -/

namespace Sys2Proof.Machine

/-! ## The duplicate table -/

/-- The duplicate entry of a source (R87). -/
def State.dup? (s : State) (source : Nat) : Option DupEntry := s.dups.find? (fun e => e.source == source)

/-- Put a duplicate entry. -/
def putDup (e : DupEntry) (s : State) : State := { s with dups := insertBy DupEntry.source e s.dups }

/-- Remove the duplicate entry of a source. -/
def removeDup (source : Nat) (s : State) : State :=
  { s with dups := s.dups.filter (fun e => e.source != source) }

/-- Of two entries, whether the first is evicted before the second (R90): the longer unused, then the lower source. -/
def evictedBefore (e f : DupEntry) : Bool :=
  e.lastUse < f.lastUse || (e.lastUse == f.lastUse && e.source < f.source)

/-- The entry that R90 evicts. -/
def evictionVictim : List DupEntry → Option DupEntry
  | [] => none
  | e :: l =>
    match evictionVictim l with
    | none => some e
    | some f => if evictedBefore f e then some f else some e

/-- Room for a new entry: with 128 entries held one is evicted and DUP_EVICTED counted (R90). -/
def makeDupRoom (s : State) : State :=
  if Config.duplicateLimit ≤ s.dups.length then
    match evictionVictim s.dups with
    | none => s
    | some e => count .dupEvicted (removeDup e.source s)
  else s

/-- A final reply decided for a new telegram is recorded (R89): superseding the source's entry in place, or as a new
entry. -/
def recordFinal (x : Side) (t : Telegram) (reply : FinalReply) (s : State) : State :=
  let e : DupEntry := { source := t.src, seq := t.seq, arrivalSide := x, reply := reply, lastUse := s.now }
  match s.dup? t.src with
  | some _ => putDup e s
  | none => putDup e (makeDupRoom s)

/-- The stored final reply of a duplicate (R88), with the state after it is given again. -/
def answerDuplicate (x : Side) (t : Telegram) (s : State) : Option (FinalReply × State) :=
  match s.dup? t.src with
  | none => none
  | some e =>
    if e.seq = t.seq then
      some (e.reply, count .duplicatesAnswered (putDup { e with arrivalSide := x, lastUse := s.now } s))
    else none

/-- A final reply is given and recorded (R89). -/
def giveFinal (x : Side) (t : Telegram) (reply : FinalReply) (s : State) : ReplyKind × State :=
  (.final reply, recordFinal x t reply s)

/-! ## Custody acceptance (R93) -/

/-- The new FORWARD record (R97, R98). -/
def forwardRecord (x : Side) (t : Telegram) (s : State) : Record where
  number := s.lowestFree
  origin := .forward
  kind := t.kind
  source := t.src
  destination := t.dst
  seq := t.seq
  inSide := x
  outSide := x.other
  payload := t.payload
  stamp := s.newStamp
  state := .queued
  attempts := 0
  busyCount := 0
  retryLimit := s.params.retryLimit
  busyLimit := s.params.busyLimit
  deadline := s.now + s.params.lifetime * Config.millisecond
  mark := none
  rejectReason := none

/-- The relay takes custody (R97): the record, the duplicate entry and the count, and port Y's arbiter runs. -/
def takeCustody (x : Side) (t : Telegram) (s : State) : ReplyKind × State :=
  let s1 := insertRecord (forwardRecord x t s) (claimCells (cellsFor t.payload.length) s)
  (.final .ack, arbitrate x.other (recordFinal x t .ack (count .custodyAccepted s1)))

/-- The room test of R96. -/
def State.custodyRoom (s : State) (t : Telegram) : Bool :=
  Config.forwardDescriptorFloor ≤ s.freeDescriptors
    && cellsFor t.payload.length + Config.originationReserve ≤ s.free

/-- Custody acceptance (R93): duplicate, path down, admission, room, take custody. -/
def acceptCustody (x : Side) (t : Telegram) (admitted : Bool) (s : State) : ReplyKind × State :=
  match answerDuplicate x t s with
  | some (reply, s1) => (.final reply, s1)
  | none =>
    if (s.port x.other).state = .down then giveFinal x t (.reject .pathDown) s
    else if admitted = false then giveFinal x t (.reject .notAdmitted) s
    else if s.custodyRoom t = false then (.busy, s)
    else takeCustody x t s

/-! ## Management acceptance (R101) -/

/-- An accepted MREQ joins the tail of the management request queue (R102); into an empty queue it becomes the head, which
is then tested (R153). -/
def storeRequest (x : Side) (t : Telegram) (s : State) : State :=
  let s1 := claimCells (cellsFor t.payload.length) s
  { s1 with
    requests := s1.requests ++ [{ station := t.src, side := x, seq := t.seq, payload := t.payload }]
    headDue := s1.headDue || s1.requests.isEmpty }

/-- Management acceptance (R101): duplicate, room, accept. -/
def acceptRequest (x : Side) (t : Telegram) (s : State) : ReplyKind × State :=
  match answerDuplicate x t s with
  | some (reply, s1) => (.final reply, s1)
  | none =>
    if Config.requestLimit ≤ s.requests.length ∨ s.restart.isSome ∨ s.free < cellsFor t.payload.length then (.busy, s)
    else giveFinal x t .ack (storeRequest x t s)

/-! ## Replies chosen by the forwarding decision (R104) -/

/-- The duplicate test, then the chosen reply (R104, R52). -/
def giveChosen (x : Side) (t : Telegram) (reply : FinalReply) (s : State) : ReplyKind × State :=
  match answerDuplicate x t s with
  | some (stored, s1) => (.final stored, s1)
  | none => giveFinal x t reply s

end Sys2Proof.Machine
end

