-- ==== Sys2Proof/Machine/Restart.lean ====
section
/-! DEFINITION. The segment reset of one side, the two restarts and the hardware reset, each block's part in turn. -/

namespace Sys2Proof.Machine

/-! ## Segment reset of side X -/

/-- Port X's part (R38): a choice held in DEFER is dropped, plain queue X flushed, SEGMENT_RESET_X latched. -/
def segmentResetPort (x : Side) (s : State) : State :=
  let p := s.port x
  let s1 := if p.state = .defer then setPort x { p.noChoice with state := .idle } s else s
  latch (.segmentReset x) (flushQueue x s1)

/-- The Delivery Engine's part (R130): every record with out side X ends, in ascending record number (log 7). -/
def segmentResetRecords (x : Side) (s : State) : State :=
  (s.records.filter (fun r => r.outSide == x)).foldl (fun s r => endUndelivered r .segmentReset s) s

/-- The Custody Unit's part (R92): the entries whose arrival side is X are removed. -/
def segmentResetDups (x : Side) (s : State) : State :=
  { s with dups := s.dups.filter (fun e => e.arrivalSide != x) }

/-- The requests of a queue that a segment reset of side X keeps (R170). -/
def requestsKept (x : Side) (qs : List Request) : List Request := qs.filter (fun q => q.side != x)

/-- The Management Unit's part (R170): the requests from side X are removed and their cells released; when the head is
among them its claim is withdrawn and the new head is tested. -/
def segmentResetRequests (x : Side) (s : State) : State :=
  let gone := s.requests.filter (fun q => q.side == x)
  if gone.isEmpty then s
  else
    let headGone := s.requests.head?.any (fun q => q.side == x)
    { releaseCells (sumCells Request.cells gone) s with
      requests := requestsKept x s.requests
      respClaim := s.respClaim && !headGone
      headDue := if headGone then !(requestsKept x s.requests).isEmpty else s.headDue }

/-- The Session Unit's part (R150): a session with holder side X closes and SESSION_LAPSED is latched. -/
def segmentResetSession (x : Side) (s : State) : State :=
  if s.session.any (fun c => c.side == x) then latch .sessionLapsed { s with session := none } else s

/-- The Event Unit's part (R182): the reported set becomes empty when the event side is X. -/
def segmentResetEvents (x : Side) (s : State) : State :=
  if s.eventStation.any (fun e => e.2 == x) then { s with reported := 0#16 } else s

/-- A segment reset of side X takes effect (R53): each block's part, after which the arbiters run (R38). -/
def segmentReset (x : Side) (s : State) : State :=
  arbitrateBoth
    (segmentResetEvents x (segmentResetSession x (segmentResetRequests x (segmentResetDups x
      (segmentResetRecords x (segmentResetPort x s))))))

/-! ## RESTART QUEUES (R168) -/

/-- A port at RESTART QUEUES (R39): DOWN stays DOWN; any other state ends what it does and enters IDLE. -/
def Port.restartQueues (now : Nat) (p : Port) : Port :=
  if p.state = .down then p
  else
    { p.noChoice with
      state := .idle
      returnState := none
      awaited := none
      replyTimer := .stopped
      quietSince := if p.state = .sending ∨ p.state = .replying then now else p.quietSince
      reply := none
      txd := [] }

/-- How many FORWARD records are held. -/
def State.forwardCount (s : State) : Nat := (s.records.filter (fun r => r.origin == .forward)).length

/-- RESTART QUEUES as one event at all blocks (R168, R39, R84, R131, R92, R151, R182). -/
def restartQueues (s : State) : State :=
  let s1 := clearCountersBut .custodyDiscarded (countBy .custodyDiscarded s.forwardCount s)
  latch .restarted
    { s1 with
      portA := s.portA.restartQueues s.now
      portB := s.portB.restartQueues s.now
      free := Config.poolCells
      queueA := []
      queueB := []
      dups := []
      records := []
      session := none
      requests := []
      restart := none
      restartDue := false
      respClaim := false
      eventClaim := false
      claimsDue := false
      headDue := false
      reported := 0#16
      eventRecord := none
      repeatTimer := .stopped }

/-! ## Hardware reset and RESTART FULL (R188, R189, R169) -/

/-- Whether a STATION strap value names no individual station (R2, R188). -/
def strapInvalid (station : BitVec 11) : Bool := station.toNat = 0 || 1984 ≤ station.toNat

/-- OWN as sampled (R2, R188). -/
def sampledOwn (station : BitVec 11) : Nat := if strapInvalid station then 1983 else station.toNat

/-- MODE as START gives it (R188). -/
def sampledMode (start : Bool) : Mode := if start then .forward else .isolate

/-- Every block at its hardware-reset values, the straps sampled at the levels given (R188, R189). The clock, the LINE_OK
levels and the commands that wait stand outside the reset. -/
def resetWith (straps : Straps) (s : State) : State where
  now := s.now
  held := false
  pins := straps
  own := sampledOwn straps.station
  rate := straps.rate
  portA := Port.afterReset s.now s.portA.lineOk
  portB := Port.afterReset s.now s.portB.lineOk
  stations := []
  nextTick := s.now + Config.agingPeriod
  free := Config.poolCells
  queueA := []
  queueB := []
  dups := []
  records := []
  ownSeq := 0#4
  groupsAB := BitVec.allOnes 63
  groupsBA := BitVec.allOnes 63
  params := Params.defaults (sampledMode straps.start)
  epoch := 0#16
  session := none
  requests := []
  restart := none
  restartDue := false
  respClaim := false
  eventClaim := false
  claimsDue := false
  headDue := false
  counters := Vector.replicate 26 0#32
  latched := if strapInvalid straps.station then Event.restarted.bit ||| Event.strapInvalid.bit else Event.restarted.bit
  mask := BitVec.allOnes 16
  reported := 0#16
  eventStation := none
  eventRecord := none
  repeatTimer := .stopped
  pending := s.pending

end Sys2Proof.Machine
end

