-- ==== Sys2Proof/Machine/Reads.lean ====
section
/-! DEFINITION. Authority (R136) and what the commands carried out by the Management Unit do (R160 to R166, R181): the
state after part 4 of R155, and the answer. -/

namespace Sys2Proof.Machine

/-- Whether the table holds a LOADED entry with manage yes (R136). -/
def State.managed (s : State) : Bool := s.stations.any (fun e => e.isLoaded && e.manage)

/-- Manager authority of a station (R136). -/
def State.permits (s : State) (station : Nat) : Bool :=
  !s.managed || s.stations.any (fun e => e.isLoaded && e.manage && e.station == station)

/-! ## Reads -/

/-- IDENTIFY (R160): the values as they stand, in the order of R186. -/
def doIdentify (_q : Request) (s : State) : State × Answer :=
  (s, doneWith (beBytes 2 Config.vendorCode ++ beBytes 2 Config.partCode ++ beBytes 1 Config.revision ++ beBytes 2 s.own
    ++ [s.rate.setWidth 8, BitVec.ofNat 8 s.params.mode.code] ++ beBytes 2 s.epoch.toNat
    ++ stationBytes (s.session.map Session.holder) ++ beBytes 2 s.free ++ beBytes 1 s.records.length))

/-- READ_STATIONS (R161). -/
def doReadStations (q : Request) (s : State) : State × Answer :=
  match argIn q.args 0 2 (fun v => v ≤ 2047) with
  | none => (s, badArgument 0)
  | some first =>
    match argIn q.args 2 1 (fun v => v ≤ 16) with
    | none => (s, badArgument 1)
    | some maximum =>
      let (entries, more) := listing StationEntry.station first maximum s.stations
      (s, doneWith (beBytes 2 first ++ beBytes 1 entries.length ++ [flagCode more] ++ entries.flatMap stationEntryBytes))

/-- The active LOADED entries in ascending station number, as staged entries (R162, R139). -/
def State.loadedEntries (s : State) : List StagedEntry :=
  (s.stations.filter StationEntry.isLoaded).map StationEntry.staged

/-- The active configuration as a staged one (R139, R148). -/
def State.activeCopy (s : State) : Staged where
  entries := s.loadedEntries
  groupsAB := s.groupsAB
  groupsBA := s.groupsBA
  params := s.params

/-- The results of READ_CONFIG over a configuration (R162, R186). -/
def configResults (epoch : BitVec 16) (first maximum : Nat) (c : Staged) : List Byte :=
  let (entries, more) := listing StagedEntry.station first maximum c.entries
  beBytes 2 epoch.toNat ++ groupBytes c.groupsAB ++ groupBytes c.groupsBA ++ c.params.values.flatMap (beBytes 2)
    ++ beBytes 2 first ++ beBytes 1 entries.length ++ [flagCode more] ++ entries.flatMap stagedEntryBytes

/-- READ_CONFIG (R162): the argument tests first, then the session for the staged source. -/
def doReadConfig (q : Request) (s : State) : State × Answer :=
  match argIn q.args 0 1 (fun v => v ≤ 1) with
  | none => (s, badArgument 0)
  | some source =>
    match argIn q.args 1 2 (fun v => v ≤ 2047) with
    | none => (s, badArgument 1)
    | some first =>
      match argIn q.args 3 1 (fun v => v ≤ 16) with
      | none => (s, badArgument 2)
      | some maximum =>
        if source = 0 then (s, doneWith (configResults s.epoch first maximum s.activeCopy))
        else
          match s.session with
          | none => (s, plainAnswer .noSession)
          | some c => (s, doneWith (configResults s.epoch first maximum c.staged))

/-- The values of `n` counters from index `first` (R163). -/
def counterBytes (first n : Nat) (bank : CounterBank) : List Byte :=
  ((bank.toList.drop first).take n).flatMap (fun v => beBytes 4 v.toNat)

/-- READ_COUNTERS (R163): with the clear flag set the authority test comes first (R158), and the counters named are
cleared after they are read. -/
def doReadCounters (q : Request) (s : State) : State × Answer :=
  if argAt q.args 2 1 = some 1 ∧ s.permits q.station = false then (s, plainAnswer .notManager)
  else
    match argIn q.args 0 1 (fun v => v ≤ 25) with
    | none => (s, badArgument 0)
    | some first =>
      match argIn q.args 1 1 (fun n => 1 ≤ n && first + n ≤ 26) with
      | none => (s, badArgument 1)
      | some n =>
        match argIn q.args 2 1 (fun v => v ≤ 1) with
        | none => (s, badArgument 2)
        | some clear =>
          (if clear = 1 then clearCounters first n s else s,
            doneWith (beBytes 1 first ++ beBytes 1 n ++ counterBytes first n s.counters))

/-- READ_CUSTODY (R164). -/
def doReadCustody (q : Request) (s : State) : State × Answer :=
  match argIn q.args 0 1 (fun v => v ≤ 63) with
  | none => (s, badArgument 0)
  | some first =>
    match argIn q.args 1 1 (fun v => v ≤ 8) with
    | none => (s, badArgument 1)
    | some maximum =>
      let (records, more) := listing Record.number first maximum s.records
      (s, doneWith (beBytes 1 first ++ beBytes 1 records.length ++ [flagCode more] ++ records.flatMap recordSummary))

/-- READ_EVENTS (R181). -/
def doReadEvents (_q : Request) (s : State) : State × Answer :=
  (s, doneWith (eventSetBytes s.latched ++ eventSetBytes s.mask ++ eventSetBytes s.reported
    ++ stationBytes (s.eventStation.map Prod.fst)
    ++ [match s.eventStation with | some e => sideCode e.2 | none => 0xFF#8, flagCode s.eventRecord.isSome]))

/-! ## PURGE and RESTART -/

/-- The code of a PURGE of every destination (R185). -/
def purgeAll : Nat := 0xFFFF

/-- The optional out side of a PURGE (R165, R183): absent, or one of its two codes; none when it is neither. -/
def purgeSide (args : List Byte) : Option (Option Side) :=
  match args[2]? with
  | none => some none
  | some c => (sideOfCode c).map some

/-- PURGE (R165): the purge of R128 and its two counts. -/
def doPurge (q : Request) (s : State) : State × Answer :=
  if s.permits q.station = false then (s, plainAnswer .notManager)
  else
    match argIn q.args 0 2 (fun v => isIndividual v || v == purgeAll) with
    | none => (s, badArgument 0)
    | some d =>
      match purgeSide q.args with
      | none => (s, badArgument 1)
      | some side =>
        let destination := if d = purgeAll then none else some d
        (purgeRecords destination side s,
          doneWith (beBytes 1 (purgeCount .atOnce destination side s) ++ beBytes 1 (purgeCount .marked destination side s)))

/-- RESTART (R166): restart pending becomes present, with the record number the response of this execution will take. -/
def doRestart (q : Request) (s : State) : State × Answer :=
  if s.permits q.station = false then (s, plainAnswer .notManager)
  else
    match argIn q.args 0 1 (fun v => v ≤ 1) with
    | none => (s, badArgument 0)
    | some k =>
      ({ s with restart := some { kind := if k = 0 then .queues else .full, record := s.lowestFree } }, doneWith [])

/-! ## Event commands (R177) -/

/-- SET_EVENT_STATION (R178): 0000h is none. The reported set and the sent set of a record in flight become empty. -/
def doSetEventStation (q : Request) (s : State) : State × Answer :=
  if s.permits q.station = false then (s, plainAnswer .notManager)
  else
    match argIn q.args 0 2 (fun v => v == 0 || (isIndividual v && v != s.own)) with
    | none => (s, badArgument 0)
    | some station =>
      ({ s with
          eventStation := if station = 0 then none else some (station, q.side)
          reported := 0#16
          eventRecord := s.eventRecord.map (fun f => { f with sent := 0#16 }) },
        doneWith [])

/-- SET_EVENT_MASK (R180). -/
def doSetEventMask (q : Request) (s : State) : State × Answer :=
  if s.permits q.station = false then (s, plainAnswer .notManager)
  else
    match argAt q.args 0 2 with
    | none => (s, badArgument 0)
    | some m => ({ s with mask := BitVec.ofNat 16 m }, doneWith [])

/-- CLEAR_EVENTS (R179): the events leave the latched, the reported and the sent set. -/
def doClearEvents (q : Request) (s : State) : State × Answer :=
  if s.permits q.station = false then (s, plainAnswer .notManager)
  else
    match argAt q.args 0 2 with
    | none => (s, badArgument 0)
    | some m =>
      let keep := ~~~ BitVec.ofNat 16 m
      ({ s with
          latched := s.latched &&& keep
          reported := s.reported &&& keep
          eventRecord := s.eventRecord.map (fun f => { f with sent := f.sent &&& keep }) },
        doneWith [])

end Sys2Proof.Machine
end

