-- ==== Sys2Proof/Machine/Sessions.lean ====
section
/-! DEFINITION. The Session Unit (chapter 8): the session and staging commands and the commit. -/

namespace Sys2Proof.Machine

/-- A request of the session holder renews the lease and sets the holder side (R137, R155 part 2). -/
def renewLease (q : Request) (s : State) : State :=
  match s.session with
  | some c =>
    if c.holder = q.station then
      { s with session := some { c with side := q.side, leaseEnd := s.now + c.lease * Config.second } }
    else s
  | none => s

/-! ## OPEN_SESSION and CLOSE_SESSION -/

/-- The lease argument of OPEN_SESSION (R139, R183): absent, or 1..255; none when it is 0. -/
def leaseArgument (args : List Byte) : Option (Option Nat) :=
  match args with
  | [] => some none
  | l :: _ => if l.toNat = 0 then none else some (some l.toNat)

/-- The results of OPEN_SESSION: epoch and lease length in force (R139, R186). -/
def openResults (lease : Nat) (s : State) : List Byte := beBytes 2 s.epoch.toNat ++ beBytes 1 lease

/-- OPEN_SESSION (R139). -/
def doOpenSession (q : Request) (s : State) : State × Answer :=
  if s.permits q.station = false then (s, plainAnswer .notManager)
  else
    match leaseArgument q.args with
    | none => (s, badArgument 0)
    | some argument =>
      let lease := argument.getD s.params.lease
      let leaseEnd := s.now + lease * Config.second
      match s.session with
      | none =>
        ({ s with session := some { holder := q.station, side := q.side, lease := lease, leaseEnd := leaseEnd,
                                    staged := s.activeCopy } },
          doneWith (openResults lease s))
      | some c =>
        if c.holder = q.station then
          ({ s with session := some { c with side := q.side, lease := lease, leaseEnd := leaseEnd } },
            { outcome := .resumed, results := openResults lease s })
        else (s, { outcome := .sessionHeld, results := beBytes 2 c.holder })

/-- Tests 1 to 3 of R138 for CLOSE_SESSION, COMMIT and the staging commands: authority, session, holder. -/
def holderTests (q : Request) (s : State) : Except OutcomeCode Session :=
  if s.permits q.station = false then .error .notManager
  else
    match s.session with
    | none => .error .noSession
    | some c => if c.holder = q.station then .ok c else .error .notHolder

/-- CLOSE_SESSION (R140). -/
def doCloseSession (q : Request) (s : State) : State × Answer :=
  match holderTests q s with
  | .error o => (s, plainAnswer o)
  | .ok _ => ({ s with session := none }, doneWith [])

/-! ## Staging (R141) -/

/-- Put a staged configuration in the open session. -/
def putStaged (c : Session) (staged : Staged) (s : State) : State :=
  { s with session := some { c with staged := staged } }

/-- STAGE_STATION (R142). -/
def doStageStation (q : Request) (s : State) : State × Answer :=
  match holderTests q s with
  | .error o => (s, plainAnswer o)
  | .ok c =>
    match stagedEntryOf s.own q.args with
    | none => (s, badArgument 0)
    | some e =>
      let list := c.staged.entries
      if list.any (fun g => g.station == e.station) || list.length < Config.stagedLimit then
        (putStaged c { c.staged with entries := insertBy StagedEntry.station e list } s, doneWith [])
      else (s, plainAnswer .tableFull)

/-- UNSTAGE_STATION (R143): a number that cannot be in the list gives NOT_FOUND (log 20). -/
def doUnstageStation (q : Request) (s : State) : State × Answer :=
  match holderTests q s with
  | .error o => (s, plainAnswer o)
  | .ok c =>
    match argAt q.args 0 2 with
    | none => (s, badArgument 0)
    | some station =>
      let list := c.staged.entries
      if list.any (fun g => g.station == station) then
        (putStaged c { c.staged with entries := list.filter (fun g => g.station != station) } s, doneWith [])
      else (s, plainAnswer .notFound)

/-- STAGE_GROUPS (R144): a set with bit 63 names a group outside 0..62 (R187). -/
def doStageGroups (q : Request) (s : State) : State × Answer :=
  match holderTests q s with
  | .error o => (s, plainAnswer o)
  | .ok c =>
    match argIn q.args 0 1 (fun v => v ≤ 1) with
    | none => (s, badArgument 0)
    | some direction =>
      match argIn q.args 1 8 (fun v => v < 2 ^ 63) with
      | none => (s, badArgument 1)
      | some g =>
        let set := BitVec.ofNat 63 g
        let staged := if direction = 0 then { c.staged with groupsAB := set } else { c.staged with groupsBA := set }
        (putStaged c staged s, doneWith [])

/-- STAGE_PARAMS (R145): the whole list is tested before anything is staged. -/
def doStageParams (q : Request) (s : State) : State × Answer :=
  match holderTests q s with
  | .error o => (s, plainAnswer o)
  | .ok c =>
    match stagePairs 0 q.args c.staged.params with
    | .error i => (s, badArgument i)
    | .ok p => (putStaged c { c.staged with params := p } s, doneWith [])

/-! ## COMMIT -/

/-- The epoch after a commit (R135): 65535 is followed by 1. -/
def nextEpoch (e : BitVec 16) : BitVec 16 := if e = 0xFFFF#16 then 1#16 else e + 1

/-- Steps 1 to 4 of R147: the merge, the group sets and parameters, the epoch. -/
def installConfig (staged : Staged) (s : State) : State :=
  { s with
    stations := mergeStations staged.entries s.stations
    groupsAB := staged.groupsAB
    groupsBA := staged.groupsBA
    params := staged.params
    epoch := nextEpoch s.epoch }

/-- A lowered DUP_HOLD removes at once the entries it finds at or above it (R91). -/
def expireDups (s : State) : State :=
  { s with dups := s.dups.filter (fun e => s.now < e.lastUse + s.params.dupHold * Config.millisecond) }

/-- The session after a commit (R148): a fresh copy when it is kept open and the holder is still permitted, else closed. -/
def settleSession (keepOpen : Bool) (c : Session) (s : State) : State :=
  if keepOpen = true ∧ s.permits c.holder = true then { s with session := some { c with staged := s.activeCopy } }
  else { s with session := none }

/-- A commit whose epoch check passes (R147, R148). -/
def carryOutCommit (keepOpen : Bool) (c : Session) (s : State) : State :=
  settleSession keepOpen c
    (routeCheck (fun _ => true) (latch .committed (expireDups (installConfig c.staged s))))

/-- COMMIT (R146): arguments, epoch check, then R147 and R148. -/
def doCommit (q : Request) (s : State) : State × Answer :=
  match holderTests q s with
  | .error o => (s, plainAnswer o)
  | .ok c =>
    match argAt q.args 0 2 with
    | none => (s, badArgument 0)
    | some expected =>
      match argIn q.args 2 1 (fun v => v ≤ 1) with
      | none => (s, badArgument 1)
      | some keep =>
        if expected = s.epoch.toNat then
          let s1 := carryOutCommit (keep == 1) c s
          (s1, doneWith (beBytes 2 s1.epoch.toNat ++ [flagCode s1.session.isSome]))
        else (s, { outcome := .stale, results := beBytes 2 s.epoch.toNat })

end Sys2Proof.Machine
end

