-- ==== Sys2Proof/Machine/Requests.lean ====
section
/-! DEFINITION. The execution of the head request (chapter 9), the sending of events (R175), and the steps that follow at
once from another step: a restart, the waiting claims, the head (log 3). -/

namespace Sys2Proof.Machine

/-! ## Execution (R155) -/

/-- Part 4 of R155: the command is decided and carried out by the unit that owns it. -/
def carryOut (c : Command) (q : Request) (s : State) : State × Answer :=
  match c with
  | .identify => doIdentify q s
  | .readStations => doReadStations q s
  | .readConfig => doReadConfig q s
  | .readCounters => doReadCounters q s
  | .readCustody => doReadCustody q s
  | .readEvents => doReadEvents q s
  | .openSession => doOpenSession q s
  | .closeSession => doCloseSession q s
  | .stageStation => doStageStation q s
  | .unstageStation => doUnstageStation q s
  | .stageGroups => doStageGroups q s
  | .stageParams => doStageParams q s
  | .commit => doCommit q s
  | .purge => doPurge q s
  | .restart => doRestart q s
  | .setEventStation => doSetEventStation q s
  | .setEventMask => doSetEventMask q s
  | .clearEvents => doClearEvents q s

/-- The two faults of the common part (R157): a payload too short, or an unknown command code. -/
def malformedAnswer (q : Request) : Answer :=
  if q.payload.length < 3 then plainAnswer .badArgument else plainAnswer .unknownCommand

/-- Parts 1 to 4 of R155. -/
def decideRequest (q : Request) (s : State) : State × Answer :=
  let s1 := renewLease q s
  match q.command with
  | some c => carryOut c q s1
  | none => (s1, malformedAnswer q)

/-- The cells the response of a request needs, worked out from the state as it stands (R154). -/
def responseCells (q : Request) (s : State) : Nat := cellsFor (responsePayload q (decideRequest q s).2).length

/-- R153's conditions for a request at the head. -/
def State.canExecute (s : State) (q : Request) : Bool :=
  s.restart.isNone && 1 ≤ s.freeDescriptors && responseCells q s ≤ s.free

/-- The head request can execute (R153). -/
def State.headPasses (s : State) : Bool :=
  match s.requests with
  | [] => false
  | q :: _ => s.canExecute q

/-- Part 5 of R155: the RESPONSE record is created (R156, R109). -/
def createResponse (q : Request) (a : Answer) (s : State) : State :=
  let payload := responsePayload q a
  placeRelayRecord .response q.station q.side payload (claimCells (cellsFor payload.length) s)

/-- Part 6 of R155: the entry leaves the queue, its cells are released and the new head is to be tested (R153). -/
def leaveQueue (q : Request) (rest : List Request) (s : State) : State :=
  { releaseCells q.cells s with requests := rest, respClaim := false, headDue := !rest.isEmpty }

/-- The execution of a request at the head, with the rest of the queue (R155). -/
def executeRequest (q : Request) (rest : List Request) (s : State) : State :=
  let d := decideRequest q s
  leaveQueue q rest (createResponse q d.2 d.1)

/-! ## Sending an EVENT (R175) -/

/-- An EVENT may be created: a descriptor and a cell are free (R175, R76). -/
def State.eventPasses (s : State) : Bool := 1 ≤ s.freeDescriptors && 1 ≤ s.free

/-- The send condition (R175). -/
def State.sendCondition (s : State) : Bool :=
  s.eventStation.isSome && s.eventRecord.isNone
    && (s.unmasked &&& ~~~ s.reported != 0#16 || (s.repeatTimer == .expired && s.unmasked != 0#16))

/-- The payload of an EVENT (R175, R185): the epoch and the latched and unmasked set. -/
def eventPayload (s : State) : List Byte := beBytes 2 s.epoch.toNat ++ eventSetBytes s.unmasked

/-- An EVENT record is created (R175): its set becomes the sent set and the repeat timer STOPPED. The claim is granted
before the payload is written (log 9). -/
def createEvent (s : State) : State :=
  match s.eventStation with
  | none => s
  | some (station, side) =>
    let s1 := claimCells 1 s
    { placeRelayRecord .event station side (eventPayload s1) s1 with
      eventRecord := some { record := s1.lowestFree, sent := s1.unmasked }
      repeatTimer := .stopped
      eventClaim := false }

/-! ## Steps that follow at once (log 3) -/

/-- A step that follows at once from the step before. -/
inductive Due where
  /-- the restart whose response has ended (R167) -/
  | restart (kind : RestartKind)
  /-- the waiting RESPONSE claim is granted and the head executes (R78, R153) -/
  | responseClaim
  /-- the waiting EVENT claim is granted (R78) -/
  | eventClaim
  /-- the request that has become the head executes (R153) -/
  | head
  deriving DecidableEq, Repr

/-- The waiting RESPONSE claim is to be tried and passes (R78). -/
def State.responseClaimDue (s : State) : Bool := s.claimsDue && s.respClaim && s.headPasses

/-- The waiting EVENT claim is to be tried and passes (R78). -/
def State.eventClaimDue (s : State) : Bool := s.claimsDue && s.eventClaim && s.eventPasses

/-- The step due, in the order restart, RESPONSE claim, EVENT claim, new head (R78, R153, R167; log 3, log 19). -/
def State.due (s : State) : Option Due :=
  if s.held then none
  else
    match s.restartDue, s.restart with
    | true, some p => some (.restart p.kind)
    | _, _ =>
      if s.responseClaimDue then some .responseClaim
      else if s.eventClaimDue then some .eventClaim
      else if s.headDue && s.headPasses then some .head
      else none

/-- The Event Unit withdraws its claim when the send condition no longer holds (R175). -/
def withdrawClaim (s : State) : State := { s with eventClaim := s.eventClaim && s.sendCondition }

/-- The Event Unit tests the send condition (R175): when it holds and no claim waits yet, the record is created, or a claim
waits for a descriptor and a cell. -/
def testSend (s : State) : State :=
  if s.sendCondition && !s.eventClaim then
    if s.eventPasses then createEvent s else { s with eventClaim := true }
  else s

/-- The tests that found nothing to do are over: the waiting claims were tried (R78), and the head, tested and refused, has
its claim waiting unless a restart is pending (R153). -/
def closeTests (s : State) : State :=
  { s with
    claimsDue := false
    headDue := false
    respClaim := s.respClaim || (s.headDue && !s.requests.isEmpty && s.restart.isNone) }

/-- The end of a step (log 8): the arbiters run (R26). A step that is then due follows at once, and the Event Unit acts on
what was latched when that step is over (R155, part 6 and after). With nothing due the Event Unit acts, the arbiters see its
record, and the tests are closed. The arbiters so run before a restart that has become due (log 30). -/
def finish (s : State) : State :=
  let s1 := withdrawClaim (arbitrateBoth s)
  match s1.due with
  | some _ => s1
  | none => closeTests (arbitrateBoth (testSend s1))

/-- The head request executes. -/
def executeHead (s : State) : State :=
  match s.requests with
  | [] => s
  | q :: rest => executeRequest q rest s

/-- A restart is carried out (R168, R169). -/
def carryOutRestart (k : RestartKind) (s : State) : State :=
  match k with
  | .queues => restartQueues s
  | .full => resetWith s.pins s

/-- A due step is carried out, whole. -/
def carryOutDue (d : Due) (s : State) : State :=
  finish
    (match d with
     | .restart k => carryOutRestart k s
     | .responseClaim => executeHead s
     | .eventClaim => createEvent s
     | .head => executeHead s)

/-- The due steps one after another, up to and with the first that is wanted, or until none is due. -/
def takeDue (wanted : State → Due → Bool) : Nat → State → State
  | 0, s => s
  | n + 1, s =>
    match s.due with
    | none => s
    | some d => if wanted s d then carryOutDue d s else takeDue wanted n (carryOutDue d s)

/-- More steps than can be due in a row: each request executes once, an EVENT is created once, a restart is carried out
once. -/
def State.dueBound (s : State) : Nat := s.requests.length + 4

/-- The due steps up to and with the first that is wanted. -/
def carryOutWanted (wanted : State → Due → Bool) (s : State) : State := takeDue wanted s.dueBound s

/-- Every due step is carried out: what follows at once from a step comes before the next step (log 3). -/
def settle (s : State) : State := takeDue (fun _ _ => false) s.dueBound s

/-- The head request executes now, and it carries the command given (none: it is malformed). -/
def wantsCommand (c : Option Command) (s : State) (d : Due) : Bool :=
  (d == .head || d == .responseClaim) && (match s.requests with | [] => false | q :: _ => q.command == c)

end Sys2Proof.Machine
end

