-- ==== Sys2Proof/Machine/Management.lean ====
section
/-! DEFINITION. The steps that execute the head request or grant a waiting claim. Each carries out the steps due up to and
with its own; when its own step is not due, what is due happens and nothing else (log 3, log 4). -/

namespace Sys2Proof.Machine

/-- EVENT_CLAIM_GRANTED (R78, R175). -/
def execEventClaimGranted (s : State) : Host.Outcome State Fault Refusal :=
  .next (carryOutWanted (fun _ d => d == .eventClaim) s)

/-- RESPONSE_CLAIM_GRANTED (R78, R153): the head request executes. -/
def execResponseClaimGranted (s : State) : Host.Outcome State Fault Refusal :=
  .next (carryOutWanted (fun _ d => d == .responseClaim) s)

/-- MALFORMED_REQUEST (R157). -/
def execMalformedRequest (s : State) : Host.Outcome State Fault Refusal :=
  .next (carryOutWanted (wantsCommand none) s)

/-- IDENTIFY (R160): the head request executes. -/
def execIdentify (s : State) : Host.Outcome State Fault Refusal :=
  .next (carryOutWanted (wantsCommand (some .identify)) s)

/-- READ_STATIONS (R161): the head request executes. -/
def execReadStations (s : State) : Host.Outcome State Fault Refusal :=
  .next (carryOutWanted (wantsCommand (some .readStations)) s)

/-- READ_CONFIG (R162): the head request executes. -/
def execReadConfig (s : State) : Host.Outcome State Fault Refusal :=
  .next (carryOutWanted (wantsCommand (some .readConfig)) s)

/-- READ_COUNTERS (R163): the head request executes. -/
def execReadCounters (s : State) : Host.Outcome State Fault Refusal :=
  .next (carryOutWanted (wantsCommand (some .readCounters)) s)

/-- READ_CUSTODY (R164): the head request executes. -/
def execReadCustody (s : State) : Host.Outcome State Fault Refusal :=
  .next (carryOutWanted (wantsCommand (some .readCustody)) s)

/-- READ_EVENTS (R181): the head request executes. -/
def execReadEvents (s : State) : Host.Outcome State Fault Refusal :=
  .next (carryOutWanted (wantsCommand (some .readEvents)) s)

/-- OPEN_SESSION (R139): the head request executes. -/
def execOpenSession (s : State) : Host.Outcome State Fault Refusal :=
  .next (carryOutWanted (wantsCommand (some .openSession)) s)

/-- CLOSE_SESSION (R140): the head request executes. -/
def execCloseSession (s : State) : Host.Outcome State Fault Refusal :=
  .next (carryOutWanted (wantsCommand (some .closeSession)) s)

/-- STAGE_STATION (R142): the head request executes. -/
def execStageStation (s : State) : Host.Outcome State Fault Refusal :=
  .next (carryOutWanted (wantsCommand (some .stageStation)) s)

/-- UNSTAGE_STATION (R143): the head request executes. -/
def execUnstageStation (s : State) : Host.Outcome State Fault Refusal :=
  .next (carryOutWanted (wantsCommand (some .unstageStation)) s)

/-- STAGE_GROUPS (R144): the head request executes. -/
def execStageGroups (s : State) : Host.Outcome State Fault Refusal :=
  .next (carryOutWanted (wantsCommand (some .stageGroups)) s)

/-- STAGE_PARAMS (R145): the head request executes. -/
def execStageParams (s : State) : Host.Outcome State Fault Refusal :=
  .next (carryOutWanted (wantsCommand (some .stageParams)) s)

/-- COMMIT (R147): the head request executes. -/
def execCommit (s : State) : Host.Outcome State Fault Refusal :=
  .next (carryOutWanted (wantsCommand (some .commit)) s)

/-- PURGE (R165): the head request executes. -/
def execPurge (s : State) : Host.Outcome State Fault Refusal :=
  .next (carryOutWanted (wantsCommand (some .purge)) s)

/-- RESTART (R166): the head request executes. -/
def execRestart (s : State) : Host.Outcome State Fault Refusal :=
  .next (carryOutWanted (wantsCommand (some .restart)) s)

/-- SET_EVENT_STATION (R178): the head request executes. -/
def execSetEventStation (s : State) : Host.Outcome State Fault Refusal :=
  .next (carryOutWanted (wantsCommand (some .setEventStation)) s)

/-- SET_EVENT_MASK (R180): the head request executes. -/
def execSetEventMask (s : State) : Host.Outcome State Fault Refusal :=
  .next (carryOutWanted (wantsCommand (some .setEventMask)) s)

/-- CLEAR_EVENTS (R179): the head request executes. -/
def execClearEvents (s : State) : Host.Outcome State Fault Refusal :=
  .next (carryOutWanted (wantsCommand (some .clearEvents)) s)

end Sys2Proof.Machine
end

