-- ==== Sys2Proof/Machine/Resets.lean ====
section
/-! DEFINITION. The reset pin and the restarts (R189, R168, R169). -/

namespace Sys2Proof.Machine

/-- HARDWARE_RESET (R189): the rising edge of RESET_N, or power-up. -/
def execHardwareReset (dt : Nat) (straps : Straps) (s : State) : Host.Outcome State Fault Refusal :=
  .next (resetWith straps (elapse dt (settle s)))

/-- A port that does not drive its line (R189). -/
def Port.silenced (p : Port) : Port := { p with txd := [] }

/-- The relay is held in hardware reset (R189): both ports stop driving their lines. -/
def holdInReset (s : State) : State :=
  { s with held := true, portA := s.portA.silenced, portB := s.portB.silenced }

/-- RESET_N_LOW (R189): a pulse shorter than 10 µs has no effect. The command stands for the whole low time (log 23): the
microseconds of a short pulse are not counted on the clock, those of a longer one are. -/
def execResetNLow (dt lowFor : Nat) (s : State) : Host.Outcome State Fault Refusal :=
  let s1 := elapse dt (settle s)
  .next (if lowFor < Config.resetPulse then s1 else holdInReset (elapse lowFor s1))

/-- RESTART_QUEUES (R168), when it is due (R167). -/
def execRestartQueues (s : State) : Host.Outcome State Fault Refusal :=
  .next (carryOutWanted (fun _ d => d == .restart .queues) s)

/-- RESTART_FULL (R169), when it is due (R167), with the strap levels found (log 22). -/
def execRestartFull (straps : Straps) (s : State) : Host.Outcome State Fault Refusal :=
  .next (carryOutWanted (fun _ d => d == .restart .full) { s with pins := straps })

end Sys2Proof.Machine
end

