-- ==== Sys2Proof/Machine/Forwarding.lean ====
section
/-! DEFINITION. The Forwarding Unit (chapter 3): the staged decision for a well-formed arrival on side X. -/

namespace Sys2Proof.Machine

/-- The outcome of the slot for the record port X awaits (R13, R49). -/
def reportSlot (x : Side) (o : SlotOutcome) (s : State) : State :=
  match (s.port x).awaited with
  | none => s
  | some n => slotOutcome o n s

/-- The source check (R47): the source is OWN, or LOADED on the other side. -/
def State.sourceConflict (s : State) (x : Side) (src : Nat) : Bool :=
  src == s.own
    || (match s.lookup src with
        | some e => e.isLoaded && e.side != x
        | none => false)

/-- Stage 3 (R49): a reply kind is compared with the awaited record by R13; any other kind is counted as a format error
and gives no reply. -/
def slotArrival (x : Side) (t : Telegram) (s : State) : State :=
  if t.kind.isReply then
    match (s.port x).awaited.bind s.record? with
    | none => s
    | some r => reportSlot x (matchReply r t) s
  else reportSlot x .noReply (count (.rxFormatErr x) s)

/-- A reply the relay decides for a telegram, addressed to its source with its SEQ (R18). -/
def replyTo (t : Telegram) (d : ReplyKind × State) : State × Option Reply :=
  (d.2, some { addressee := t.src, seq := t.seq, kind := d.1 })

/-- Stage 5 (R51): a telegram addressed to OWN. -/
def toOwn (x : Side) (t : Telegram) (s : State) : State × Option Reply :=
  match t.kind with
  | .mreq => replyTo t (acceptRequest x t s)
  | .notice => replyTo t (giveChosen x t .ack s)
  | .cdata | .mrsp | .event => replyTo t (giveChosen x t (.reject .noService) s)
  | .pdata | .sreset | .ack | .busy | .reject => (s, none)

/-- Stage 6 (R53, R54): the segment reset of side X, and the SRESET's own passing. -/
def sresetArrival (x : Side) (t : Telegram) (s : State) : State :=
  let s1 := segmentReset x s
  if s1.params.mode = .forward ∧ s1.params.sresetPass = true then plainHandOff x t s1 else s1

/-- The group pass set of the direction that starts at side X (R56). -/
def State.passSet (s : State) : Side → GroupSet
  | .a => s.groupsAB
  | .b => s.groupsBA

/-- The broadcast setting of the direction that starts at side X (R57). -/
def State.broadcastSetting (s : State) : Side → PassBlock
  | .a => s.params.broadcastAB
  | .b => s.params.broadcastBA

/-- A telegram to a station with an entry (R58, R59). -/
def toKnown (x : Side) (t : Telegram) (e : StationEntry) (s : State) : State × Option Reply :=
  if e.side = x then (s, none)
  else if t.kind.isConfirmed then replyTo t (acceptCustody x t e.admitConfirmed s)
  else if e.admitPlain then (plainHandOff x t s, none)
  else (s, none)

/-- A telegram to a station without an entry (R60). -/
def toUnknown (x : Side) (t : Telegram) (s : State) : State × Option Reply :=
  match s.params.unknownPolicy with
  | .pass => if t.kind.isConfirmed then replyTo t (acceptCustody x t true s) else (plainHandOff x t s, none)
  | .ignore => (s, none)
  | .reject => if t.kind.isConfirmed then replyTo t (giveChosen x t (.reject .unknownDest) s) else (s, none)

/-- Stages 7 to 10 (R55 to R62). -/
def classify (x : Side) (t : Telegram) (s : State) : State × Option Reply :=
  if s.params.mode = .isolate then (s, none)
  else if isGroup t.dst then
    if (s.passSet x).getLsbD (t.dst - 1984) then (plainHandOff x t s, none) else (s, none)
  else if t.dst = broadcast then
    match s.broadcastSetting x with
    | .pass => (plainHandOff x t s, none)
    | .block => (s, none)
  else
    match s.lookup t.dst with
    | some e => toKnown x t e s
    | none => toUnknown x t s

/-- The stages after learning (R46): slot arrival, stray reply, OWN, SRESET, and the rest. -/
def dispose (x : Side) (t : Telegram) (s : State) : State × Option Reply :=
  if (s.port x).state = .awaitReply then (slotArrival x t s, none)
  else if t.kind.isReply then (count (.rxFormatErr x) s, none)
  else if t.dst = s.own then toOwn x t s
  else if t.kind = .sreset then (sresetArrival x t s, none)
  else classify x t s

/-- The forwarding decision (R46): source check, learning, and the rest. A source conflict is discarded, and as a slot
arrival gives no reply (R47). -/
def forward (x : Side) (t : Telegram) (s : State) : State × Option Reply :=
  if s.sourceConflict x t.src then
    let s1 := latch .sourceConflict (count .sourceConflicts s)
    (if (s.port x).state = .awaitReply then reportSlot x .noReply s1 else s1, none)
  else dispose x t (learn x t.src s)

end Sys2Proof.Machine
end

