-- ==== Sys2Proof/Machine/Line.lean ====
section
/-! DEFINITION. The steps that come from the lines (chapter 2). Each first lets what is due happen (log 3) and then the
time since the step before pass (log 1). A step that does not reach the port in its state changes nothing else (log 4). -/

namespace Sys2Proof.Machine

/-- A step from outside after `dt` microseconds: nothing reaches the relay while it is held in reset (R189). -/
def fromOutside (dt : Nat) (effect : State → State) (s : State) : Host.Outcome State Fault Refusal :=
  let s1 := elapse dt (settle s)
  .next (if s1.held then s1 else effect s1)

/-! ## LINE_OK_CHANGE (R21) -/

/-- The debounce measure goes back to zero with the new level, in every port state (R21). The level already seen is no
change of level (log 4). -/
def lineOkChanged (x : Side) (level : Bool) (s : State) : State :=
  if (s.port x).lineOk = level then s else setPort x { s.port x with lineOk := level, lineOkSince := s.now } s

/-- LINE_OK_CHANGE. The level is an input pin, so it is followed in hardware reset too (R189, log 15). -/
def execLineOkChange (dt : Nat) (x : Side) (level : Bool) (s : State) : Host.Outcome State Fault Refusal :=
  .next (lineOkChanged x level (elapse dt (settle s)))

/-! ## LINE_ACTIVITY_START (R36, R29, R34) -/

/-- The reply timer when activity begins (R36): held when the 120 bit times have not passed (log 24). -/
def heldTimer (deadline now : Nat) (t : ReplyTimer) : ReplyTimer :=
  match t with
  | .running _ => if now ≤ deadline then .held else t
  | .stopped | .held => t

/-- The moment the reply timer expires, when it runs (R36). -/
def State.replyDeadline (s : State) (x : Side) : Nat :=
  match (s.port x).replyTimer with
  | .running since => since + Config.replyTimerBits * s.bitTime
  | .stopped | .held => 0

/-- Line activity begins on port X: a reception is collected, the quiet wait starts over (R29), the reply timer is held
(R36); while the port replies the activity is passed over (R34). -/
def activityStarts (x : Side) (s : State) : State :=
  let p := s.port x
  match p.state with
  | .idle | .defer => setPort x { p with staging := .collecting } s
  | .awaitReply =>
    setPort x { p with staging := .collecting, replyTimer := heldTimer (s.replyDeadline x) s.now p.replyTimer } s
  | .replying => setPort x { p with staging := .passedOver } s
  | .down | .sending => s

/-- LINE_ACTIVITY_START. -/
def execLineActivityStart (dt : Nat) (x : Side) (s : State) : Host.Outcome State Fault Refusal :=
  fromOutside dt (activityStarts x) s

/-! ## RECEPTION_END (R25) -/

/-- Port X enters REPLYING and begins the reply (R34). -/
def startReply (x : Side) (r : Reply) (s : State) : State :=
  let p := s.port x
  setPort x
    { p with
      state := .replying
      returnState := some (if p.state = .defer then .defer else .idle)
      reply := some r
      txd := (r.telegram s.own).toLine }
    s

/-- The reply a decision gives, if it gives one, is begun (R34). -/
def answerSlot (x : Side) (d : State × Option Reply) : State :=
  match d.2 with
  | some r => startReply x r d.1
  | none => d.1

/-- The await of port X ends, if it awaits (R37). -/
def leaveAwait (x : Side) (s : State) : State :=
  if (s.port x).state = .awaitReply then setPort x (s.port x).endAwait s else s

/-- A reception that R8 or R9 discards; in an awaited slot it gives no reply (R37). -/
def discarded (x : Side) (c : Counter) (s : State) : State :=
  let s1 := count c s
  if (s.port x).state = .awaitReply then reportSlot x .noReply s1 else s1

/-- A reception taken by a port in IDLE, DEFER or AWAIT_REPLY (R25): checked by R8 and R9, and if well formed counted
(R10) and decided (R46). -/
def takeReception (x : Side) (bytes : List Byte) (s : State) : State :=
  leaveAwait x
    (match checkReception bytes with
     | .checkError => discarded x (.rxCheckErr x) s
     | .formatError => discarded x (.rxFormatErr x) s
     | .wellFormed t => answerSlot x (forward x t (count (.rxGood x) s)))

/-- A reception ends on port X (R25). Activity passed over while the port replied is not presented to any check (R34). -/
def receptionEnds (x : Side) (bytes : List Byte) (s : State) : State :=
  let p := s.port x
  let s1 := setPort x (p.lineQuiet s.now) s
  match p.state with
  | .down | .sending => s
  | .replying => s1
  | .idle | .defer | .awaitReply =>
    if p.staging = .passedOver then s1 else finish (takeReception x bytes s1)

/-- RECEPTION_END. -/
def execReceptionEnd (dt : Nat) (x : Side) (bytes : List Byte) (s : State) : Host.Outcome State Fault Refusal :=
  fromOutside dt (receptionEnds x bytes) s

/-! ## REPLY_SENT (R34, R35) -/

/-- The counter of a reply sent in full (R34): none for an ACK. -/
def replyCounter (x : Side) : ReplyKind → Option Counter
  | .busy => some (.busyGiven x)
  | .final .ack => none
  | .final (.reject _) => some (.rejectGiven x)

/-- Count the reply of port X (R34). -/
def countReply (x : Side) (s : State) : State :=
  match (s.port x).reply.bind (fun r => replyCounter x r.kind) with
  | some c => count c s
  | none => s

/-- The port's state after a reply sent in full (R35). The quiet wait is counted from the end of the reply, or from the
end of activity that outlasts it. -/
def Port.afterReply (now : Nat) (p : Port) : Port :=
  { p with
    state := if p.returnState = some .defer then .defer else .idle
    returnState := none
    reply := none
    txd := []
    quietSince := now }

/-- The reply has been sent in full (R35). -/
def replyIsSent (x : Side) (s : State) : State :=
  if (s.port x).state = .replying then
    let s1 := countReply x s
    finish (setPort x ((s1.port x).afterReply s1.now) s1)
  else s

/-- REPLY_SENT. -/
def execReplySent (dt : Nat) (x : Side) (s : State) : Host.Outcome State Fault Refusal :=
  fromOutside dt (replyIsSent x) s

/-! ## QUIET_WAIT_COMPLETE (R29) -/

/-- The telegram a port's choice stands for. -/
def State.chosenTelegram (s : State) (x : Side) : Option Telegram :=
  match (s.port x).choice with
  | none => none
  | some (.record n) => (s.record? n).map Record.telegram
  | some .plain => (s.queue x).head?.map PlainEntry.telegram

/-- The moment the quiet wait of a deferral is complete (R29). -/
def State.quietEnd (s : State) (x : Side) (slots : Nat) : Nat :=
  (s.port x).quietSince + (Config.accessGapBits + slots * Config.slotBits) * s.bitTime

/-- The quiet wait is complete (R29): in DEFER, with the line quiet, the port starts its chosen telegram, the check word
computed afresh (R7). -/
def quietWaitEnds (x : Side) (s : State) : State :=
  let p := s.port x
  match p.state, p.staging, p.deferral, s.chosenTelegram x with
  | .defer, .empty, some slots, some t =>
    setPort x { p with state := .sending, txd := t.toLine } (reach (s.quietEnd x slots) s)
  | _, _, _, _ => s

/-- QUIET_WAIT_COMPLETE. -/
def execQuietWaitComplete (x : Side) (s : State) : Host.Outcome State Fault Refusal :=
  fromOutside 0 (quietWaitEnds x) s

/-! ## CONTENTION_LOSS (R30, R31, R122) -/

/-- The deferral of a loss count, in slots (R29). -/
def deferralOf (losses : Nat) : Nat :=
  match losses with
  | 0 => 1
  | 1 => 2
  | 2 => 4
  | 3 => 8
  | 4 => 16
  | _ => 32

/-- The port stops sending, and the winner's telegram is collected from here on (R30, R25). -/
def Port.loseLine (p : Port) : Port := { p with txd := [], staging := .collecting }

/-- A loss below the 16th (R30): back to DEFER with the deferral of the new count. -/
def Port.deferAgain (losses : Nat) (p : Port) : Port :=
  { p.loseLine with state := .defer, lossCount := losses, deferral := some (deferralOf losses) }

/-- The 16th loss (R31): the choice is given up and the port enters IDLE. -/
def Port.giveUp (p : Port) : Port := { p.loseLine.noChoice with state := .idle }

/-- After a loss below the 16th a marked record is withdrawn at once, and the port drops the choice (R122, R32). -/
def withdrawMarked (x : Side) (s : State) : State :=
  match (s.port x).choice with
  | some (.record n) =>
    match s.record? n with
    | some r =>
      match r.mark with
      | some m => endUndelivered r m.reason (setPort x (s.port x).dropChoice s)
      | none => s
    | none => s
  | _ => s

/-- The chosen telegram is given up at the 16th loss (R31): a plain telegram is dropped, a record's attempt ends as
NO_ACCESS. -/
def giveUpChoice (x : Side) (c : Option Choice) (s : State) : State :=
  match c with
  | some .plain => count (.plainDropped x) (releaseHead x s)
  | some (.record n) => outcomeNoAccess n s
  | none => s

/-- The port loses the line while sending (R30, R31). A loss is reported in no other state. -/
def lineIsLost (x : Side) (s : State) : State :=
  let p := s.port x
  let losses := p.lossCount + 1
  if p.state = .sending then
    let s1 := count (.contentionLosses x) s
    finish
      (if losses < Config.lossLimit then withdrawMarked x (setPort x (p.deferAgain losses) s1)
       else giveUpChoice x p.choice (setPort x p.giveUp s1))
  else s

/-- CONTENTION_LOSS. -/
def execContentionLoss (dt : Nat) (x : Side) (s : State) : Host.Outcome State Fault Refusal :=
  fromOutside dt (lineIsLost x) s

/-! ## TRANSMIT_DONE (R33) -/

/-- The port after its chosen plain telegram has been sent in full (R33). -/
def Port.plainSent (now : Nat) (p : Port) : Port :=
  { (p.noChoice.lineQuiet now) with state := .idle, txd := [] }

/-- The port after a record has been sent in full (R33): it awaits the reply, the timer running from now. -/
def Port.recordSent (n now : Nat) (p : Port) : Port :=
  { (p.noChoice.lineQuiet now) with
    state := .awaitReply, awaited := some n, replyTimer := .running now, txd := [] }

/-- A plain telegram has been sent in full (R33): its entry leaves, and a forwarded SRESET resets the segment. -/
def plainIsSent (x : Side) (s : State) : State :=
  let s1 := setPort x ((s.port x).plainSent s.now) s
  let s2 := releaseHead x s1
  if (s.queue x).head?.any (fun e => e.telegram.kind == .sreset) then segmentReset x s2 else s2

/-- The chosen telegram has been sent in full (R33). -/
def transmissionEnds (x : Side) (s : State) : State :=
  let p := s.port x
  let s1 := count (.txTelegrams x) s
  if p.state = .sending then
    match p.choice with
    | some .plain => finish (plainIsSent x s1)
    | some (.record n) =>
      updateRecord n (fun r => { r with state := .awaiting }) (setPort x (p.recordSent n s.now) s1)
    | none => s
  else s

/-- TRANSMIT_DONE. -/
def execTransmitDone (dt : Nat) (x : Side) (s : State) : Host.Outcome State Fault Refusal :=
  fromOutside dt (transmissionEnds x) s

end Sys2Proof.Machine
end

