-- ==== Sys2Proof/Machine/Timers.lean ====
section
/-! DEFINITION. The steps at which a timer's moment arrives. Each first lets what is due happen (log 3) and then moves the
clock to that moment (log 1). A timer that does not run gives no step (log 4). -/

namespace Sys2Proof.Machine

/-- A timer's step: no timer runs while the relay is held in reset (R189). -/
def fromTimer (effect : State → State) (s : State) : Host.Outcome State Fault Refusal :=
  let s1 := settle s
  .next (if s1.held then s1 else effect s1)

/-! ## LINE_DOWN (R22, R129) -/

/-- The port after it has entered DOWN (R22): only the last class served and the debounce are kept. -/
def Port.goDown (now : Nat) (p : Port) : Port :=
  { p.noChoice with
    state := .down
    returnState := none
    awaited := none
    replyTimer := .stopped
    staging := .empty
    quietSince := now
    reply := none
    txd := [] }

/-- The record a port has chosen or awaits. -/
def Port.heldRecord (p : Port) : Option Nat :=
  match p.choice with
  | some (.record n) => some n
  | _ => p.awaited

/-- A record abandoned at line down returns to QUEUED; a marked one is then withdrawn (R129, R122). -/
def abandonRecord (n : Nat) (s : State) : State :=
  match s.record? n with
  | none => s
  | some r =>
    match r.mark with
    | some m => endUndelivered r m.reason s
    | none => updateRecord n (fun r => { r with state := .queued }) s

/-- Port X enters DOWN (R22). -/
def enterDown (x : Side) (s : State) : State :=
  let p := s.port x
  let s1 := setPort x (p.goDown s.now) s
  let s2 := match p.heldRecord with | some n => abandonRecord n s1 | none => s1
  latch (.lineDown x) (flushQueue x s2)

/-- LINE_OK has been low for 10 ms on a port that is up (R21). -/
def lineGoesDown (x : Side) (s : State) : State :=
  let p := s.port x
  if p.state ≠ .down ∧ p.lineOk = false then finish (enterDown x (reach (p.lineOkSince + Config.lowDebounce) s)) else s

/-- LINE_DOWN. -/
def execLineDown (x : Side) (s : State) : Host.Outcome State Fault Refusal :=
  fromTimer (lineGoesDown x) s

/-! ## LINE_UP (R23) -/

/-- Port X enters IDLE from DOWN (R23); the quiet measure starts now. Activity that is on the line already is taken as none:
the staging is empty, and its end is an ordinary arrival (log 29). -/
def enterUp (x : Side) (s : State) : State :=
  latch (.lineUp x) (setPort x { s.port x with state := .idle, staging := .empty, quietSince := s.now } s)

/-- LINE_OK has been high for 100 ms on a DOWN port (R21). -/
def lineComesUp (x : Side) (s : State) : State :=
  let p := s.port x
  if p.state = .down ∧ p.lineOk = true then finish (enterUp x (reach (p.lineOkSince + Config.highDebounce) s)) else s

/-- LINE_UP. -/
def execLineUp (x : Side) (s : State) : Host.Outcome State Fault Refusal :=
  fromTimer (lineComesUp x) s

/-! ## REPLY_TIMER_EXPIRY (R36) -/

/-- The reply timer expires (R36): no reply is reported, and the port enters IDLE. -/
def replyTimerExpires (x : Side) (s : State) : State :=
  let p := s.port x
  match p.state, p.replyTimer with
  | .awaitReply, .running since =>
    finish (leaveAwait x (reportSlot x .noReply (reach (since + Config.replyTimerBits * s.bitTime) s)))
  | _, _ => s

/-- REPLY_TIMER_EXPIRY. -/
def execReplyTimerExpiry (x : Side) (s : State) : Host.Outcome State Fault Refusal :=
  fromTimer (replyTimerExpires x) s

/-! ## HOLD_END (R119) -/

/-- A WAITING record's hold ends (R119): it returns to QUEUED, and its port's arbiter runs. -/
def holdEnds (n : Nat) (s : State) : State :=
  match s.record? n with
  | none => s
  | some r =>
    match r.state with
    | .waiting t => finish (updateRecord n (fun q => { q with state := .queued }) (reach t s))
    | .queued | .sending | .awaiting => s

/-- HOLD_END. -/
def execHoldEnd (n : Nat) (s : State) : Host.Outcome State Fault Refusal :=
  fromTimer (holdEnds n) s

/-! ## LIFETIME_EXPIRY (R120) -/

/-- A record's lifetime deadline arrives (R120). -/
def lifetimeEnds (n : Nat) (s : State) : State :=
  match s.record? n with
  | none => s
  | some r => finish (withdraw r .expired (reach r.deadline s))

/-- LIFETIME_EXPIRY. -/
def execLifetimeExpiry (n : Nat) (s : State) : Host.Outcome State Fault Refusal :=
  fromTimer (lifetimeEnds n) s

/-! ## AGING_TICK (R69) -/

/-- The aging tick (R69); the next one comes 1 s after it. -/
def agingTicks (s : State) : State :=
  ageStations { reach s.nextTick s with nextTick := s.nextTick + Config.agingPeriod }

/-- AGING_TICK. -/
def execAgingTick (s : State) : Host.Outcome State Fault Refusal :=
  fromTimer agingTicks s

/-! ## DUP_HOLD_EXPIRY (R91) -/

/-- A duplicate entry's time since last use reaches DUP_HOLD (R91): the entry is removed. -/
def dupHoldEnds (source : Nat) (s : State) : State :=
  match s.dup? source with
  | none => s
  | some e => removeDup source (reach (e.lastUse + s.params.dupHold * Config.millisecond) s)

/-- DUP_HOLD_EXPIRY. -/
def execDupHoldExpiry (source : Nat) (s : State) : Host.Outcome State Fault Refusal :=
  fromTimer (dupHoldEnds source) s

/-! ## LEASE_EXPIRY (R149) -/

/-- The lease end of the open session arrives (R149). -/
def leaseEnds (s : State) : State :=
  match s.session with
  | none => s
  | some c => finish (latch .sessionLapsed { reach c.leaseEnd s with session := none })

/-- LEASE_EXPIRY. -/
def execLeaseExpiry (s : State) : Host.Outcome State Fault Refusal :=
  fromTimer leaseEnds s

/-! ## EVENT_REPEAT_EXPIRY (R176) -/

/-- The repeat timer expires (R176), and the send condition is tested. -/
def eventRepeatEnds (s : State) : State :=
  match s.repeatTimer with
  | .running t => finish { reach t s with repeatTimer := .expired }
  | .stopped | .expired => s

/-- EVENT_REPEAT_EXPIRY. -/
def execEventRepeatExpiry (s : State) : Host.Outcome State Fault Refusal :=
  fromTimer eventRepeatEnds s

end Sys2Proof.Machine
end

