-- ==== Sys2Proof/Machine/Dispatch.lean ====
section
/-! DEFINITION. One arm per command: its meaning. -/

namespace Sys2Proof.Machine

def exec (i : Instr) (s : State) : Host.Outcome State Fault Refusal :=
  match i with
  | .hardwareReset elapsed straps => Sys2Proof.Machine.execHardwareReset elapsed straps s
  | .lineDown side => Sys2Proof.Machine.execLineDown side s
  | .lineUp side => Sys2Proof.Machine.execLineUp side s
  | .lineActivityStart elapsed side => Sys2Proof.Machine.execLineActivityStart elapsed side s
  | .receptionEnd elapsed side bytes => Sys2Proof.Machine.execReceptionEnd elapsed side bytes s
  | .replySent elapsed side => Sys2Proof.Machine.execReplySent elapsed side s
  | .quietWaitComplete side => Sys2Proof.Machine.execQuietWaitComplete side s
  | .contentionLoss elapsed side => Sys2Proof.Machine.execContentionLoss elapsed side s
  | .transmitDone elapsed side => Sys2Proof.Machine.execTransmitDone elapsed side s
  | .replyTimerExpiry side => Sys2Proof.Machine.execReplyTimerExpiry side s
  | .holdEnd record => Sys2Proof.Machine.execHoldEnd record s
  | .lifetimeExpiry record => Sys2Proof.Machine.execLifetimeExpiry record s
  | .agingTick => Sys2Proof.Machine.execAgingTick s
  | .dupHoldExpiry source => Sys2Proof.Machine.execDupHoldExpiry source s
  | .leaseExpiry => Sys2Proof.Machine.execLeaseExpiry s
  | .eventRepeatExpiry => Sys2Proof.Machine.execEventRepeatExpiry s
  | .eventClaimGranted => Sys2Proof.Machine.execEventClaimGranted s
  | .responseClaimGranted => Sys2Proof.Machine.execResponseClaimGranted s
  | .malformedRequest => Sys2Proof.Machine.execMalformedRequest s
  | .identify => Sys2Proof.Machine.execIdentify s
  | .readStations => Sys2Proof.Machine.execReadStations s
  | .readConfig => Sys2Proof.Machine.execReadConfig s
  | .readCounters => Sys2Proof.Machine.execReadCounters s
  | .readCustody => Sys2Proof.Machine.execReadCustody s
  | .readEvents => Sys2Proof.Machine.execReadEvents s
  | .openSession => Sys2Proof.Machine.execOpenSession s
  | .closeSession => Sys2Proof.Machine.execCloseSession s
  | .stageStation => Sys2Proof.Machine.execStageStation s
  | .unstageStation => Sys2Proof.Machine.execUnstageStation s
  | .stageGroups => Sys2Proof.Machine.execStageGroups s
  | .stageParams => Sys2Proof.Machine.execStageParams s
  | .commit => Sys2Proof.Machine.execCommit s
  | .purge => Sys2Proof.Machine.execPurge s
  | .restart => Sys2Proof.Machine.execRestart s
  | .restartQueues => Sys2Proof.Machine.execRestartQueues s
  | .restartFull straps => Sys2Proof.Machine.execRestartFull straps s
  | .setEventStation => Sys2Proof.Machine.execSetEventStation s
  | .setEventMask => Sys2Proof.Machine.execSetEventMask s
  | .clearEvents => Sys2Proof.Machine.execClearEvents s
  | .lineOkChange elapsed side level => Sys2Proof.Machine.execLineOkChange elapsed side level s
  | .resetNLow elapsed lowFor => Sys2Proof.Machine.execResetNLow elapsed lowFor s

end Sys2Proof.Machine
end

