-- ==== Sys2Proof/Safety.lean ====
section
/-! DEFINITION. What the claims speak of: states in which nothing is due, the laws of the state that every step keeps, and
what a step leaves as it was. -/

namespace Sys2Proof.Machine

/-! ## States in which a step begins -/

/-- The relay runs, and nothing is due from the step before (log 3). -/
def State.ready (s : State) : Bool := !s.held && s.due.isNone

/-- The request at the head executes now, with the rest of the queue behind it: it was tested on becoming the head, or its
waiting claim is granted (R153). -/
def State.executing (s : State) (q : Request) (rest : List Request) : Prop :=
  s.requests = q :: rest ∧ (s.due = some .head ∨ s.due = some .responseClaim)

/-- The commands that execute the head request, each with the management command it must carry; for MALFORMED_REQUEST none. -/
def executes : Instr → Option (Option Command)
  | .malformedRequest => some none
  | .identify => some (some .identify)
  | .readStations => some (some .readStations)
  | .readConfig => some (some .readConfig)
  | .readCounters => some (some .readCounters)
  | .readCustody => some (some .readCustody)
  | .readEvents => some (some .readEvents)
  | .openSession => some (some .openSession)
  | .closeSession => some (some .closeSession)
  | .stageStation => some (some .stageStation)
  | .unstageStation => some (some .unstageStation)
  | .stageGroups => some (some .stageGroups)
  | .stageParams => some (some .stageParams)
  | .commit => some (some .commit)
  | .purge => some (some .purge)
  | .restart => some (some .restart)
  | .setEventStation => some (some .setEventStation)
  | .setEventMask => some (some .setEventMask)
  | .clearEvents => some (some .clearEvents)
  | .hardwareReset .. | .lineDown _ | .lineUp _ | .lineActivityStart .. | .receptionEnd .. | .replySent ..
  | .quietWaitComplete _ | .contentionLoss .. | .transmitDone .. | .replyTimerExpiry _ | .holdEnd _ | .lifetimeExpiry _
  | .agingTick | .dupHoldExpiry _ | .leaseExpiry | .eventRepeatExpiry | .eventClaimGranted | .responseClaimGranted
  | .restartQueues | .restartFull _ | .lineOkChange .. | .resetNLow .. => none

/-- The request `q` has left the queue and its RESPONSE record is there (R155, parts 5 and 6), from the state that its
command left, with its answer. -/
def executed (q : Request) (rest : List Request) (a : Answer) (s : State) : State :=
  leaveQueue q rest (createResponse q a s)

/-- Port X takes the receptions that end on it as ordinary arrivals (R25, R34). -/
def State.receives (s : State) (x : Side) : Prop :=
  ((s.port x).state = .idle ∨ (s.port x).state = .defer) ∧ (s.port x).staging ≠ .passedOver

/-- The line of port X is quiet again after `dt` microseconds, its staging empty (R25, R29). -/
def State.quiet (s : State) (x : Side) (dt : Nat) : State :=
  setPort x { s.port x with staging := .empty, quietSince := s.now + dt } (elapse dt s)

/-- The state that the stages after learning read (R46): the arrival counted (R10) and learned from (R48). -/
def State.learned (s : State) (x : Side) (dt : Nat) (src : Nat) : State := learn x src (count (.rxGood x) (s.quiet x dt))

/-- A PDATA for `dst` that arrives on side X is passed to the other side (R56, R57, R59, R60). -/
def State.passesPlain (s : State) (x : Side) (dst : Nat) : Prop :=
  s.params.mode = .forward
    ∧ ((isGroup dst = true ∧ (s.passSet x).getLsbD (dst - 1984) = true)
      ∨ (dst = 2047 ∧ s.broadcastSetting x = .pass)
      ∨ (isIndividual dst = true ∧ ∃ e, s.lookup dst = some e ∧ e.side ≠ x ∧ e.admitPlain = true)
      ∨ (isIndividual dst = true ∧ s.lookup dst = none ∧ s.params.unknownPolicy = .pass))

/-- A confirmed telegram for `dst` that arrives on side X is handed to the Custody Unit with this admit-confirmed setting (R59, R60,
R62). -/
def State.handsOver (s : State) (x : Side) (dst : Nat) (admitted : Bool) : Prop :=
  s.params.mode = .forward ∧ dst ≠ s.own
    ∧ ((∃ e, s.lookup dst = some e ∧ e.side ≠ x ∧ admitted = e.admitConfirmed)
      ∨ (s.lookup dst = none ∧ s.params.unknownPolicy = .pass ∧ admitted = true))

/-- The duplicate table does not answer a telegram from `src` with this SEQ (R88). -/
def State.isNew (s : State) (src : Nat) (seq : BitVec 4) : Prop := ∀ e, s.dup? src = some e → e.seq ≠ seq

/-- The stored final reply of `e` is given again, to a duplicate from side X (R88). -/
def renewDup (x : Side) (e : DupEntry) (s : State) : State :=
  count .duplicatesAnswered (putDup { e with arrivalSide := x, lastUse := s.now } s)

/-- Port X takes a reply to a telegram (R34, R18). -/
def replies (x : Side) (t : Telegram) (kind : ReplyKind) (s : State) : State :=
  startReply x { addressee := t.src, seq := t.seq, kind := kind } s

/-- The await of port X is over (R37). -/
def awaitOver (x : Side) (s : State) : State := setPort x (s.port x).endAwait s

/-- The session after a request of its holder, with the staged configuration given (R137). -/
def Session.renewed (c : Session) (q : Request) (now : Nat) (staged : Staged) : Session :=
  { c with side := q.side, leaseEnd := now + c.lease * 1000000, staged := staged }

/-- The requester is the permitted holder of the open session (R138). -/
def State.holds (s : State) (q : Request) (c : Session) : Prop :=
  s.permits q.station = true ∧ s.session = some c ∧ c.holder = q.station

/-! ## Laws of the state -/

/-- Keys in strictly ascending order. -/
def ascending (key : α → Nat) : List α → Bool
  | [] => true
  | a :: l =>
    (match l with
     | [] => true
     | b :: _ => key a < key b)
      && ascending key l

/-- The cells that holders hold (R74). -/
def State.heldCells (s : State) : Nat :=
  sumCells Record.cells s.records + sumCells PlainEntry.cells s.queueA + sumCells PlainEntry.cells s.queueB
    + sumCells Request.cells s.requests

/-- Record numbers are those of descriptors, each used once (R106). -/
def State.numbered (s : State) : Bool :=
  ascending Record.number s.records && s.records.all (fun r => r.number < 64)

/-- The pool is balanced (R74): free count and held cells make 384, over records with their own descriptors. -/
def State.balanced (s : State) : Bool := s.numbered && s.free + s.heldCells == 384

/-- At most 60 descriptors hold FORWARD records (R96, R106). -/
def State.forwardBounded (s : State) : Bool := s.numbered && s.forwardCount ≤ 60

/-- The reported and the sent set hold latched events only (R173). -/
def State.eventSetsOk (s : State) : Bool :=
  s.reported &&& ~~~ s.latched == 0#16
    && (match s.eventRecord with
        | some f => f.sent &&& ~~~ s.latched == 0#16
        | none => true)

/-- A port's parts agree with its state (R19, R20, R29). -/
def Port.legal (p : Port) : Bool :=
  (p.deferral == p.choice.map (fun _ => deferralOf p.lossCount))
    && p.lossCount ≤ 15
    && (p.choice.isSome || p.lossCount == 0)
    && (p.returnState.isSome == (p.state == .replying))
    && (p.reply.isSome == (p.state == .replying))
    && (p.awaited.isSome == (p.state == .awaitReply))
    && ((p.replyTimer != .stopped) == (p.state == .awaitReply))
    && (p.choice.isSome == (p.state == .defer || p.state == .sending || p.returnState == some .defer))
    && (p.txd.isEmpty || p.state == .sending || p.state == .replying)

/-- Both ports are legal. -/
def State.portsLegal (s : State) : Bool := s.portA.legal && s.portB.legal

/-- Records and ports agree (R20, R107, R110, R111): a record is SENDING exactly when its out side's port holds it as its
choice, and AWAITING exactly when it is that port's awaited record; a choice or an awaited record is there, with that out
side; a record that is not QUEUED stands behind no older one with its out side and destination; a FORWARD record's sides
differ. -/
def State.matched (s : State) : Bool :=
  s.records.all (fun r =>
      ((r.state == .sending) == ((s.port r.outSide).choice == some (.record r.number)))
        && ((r.state == .awaiting) == ((s.port r.outSide).awaited == some r.number))
        && (r.state == .queued
          || s.records.all (fun q =>
              !(q.outSide == r.outSide && q.destination == r.destination && q.stamp < r.stamp)))
        && (r.origin != .forward || r.inSide == r.outSide.other))
    && [Side.a, .b].all (fun x =>
      (match (s.port x).choice with
        | some (.record n) => (s.record? n).any (fun r => r.outSide == x)
        | some .plain => !(s.queue x).isEmpty
        | none => true)
      && (match (s.port x).awaited with
        | some n => (s.record? n).any (fun r => r.outSide == x)
        | none => true))

/-- Every parameter lies within its range (R134). -/
def Params.inRanges (p : Params) : Bool :=
  (10 ≤ p.ageLimit && p.ageLimit ≤ 3600) && (1 ≤ p.retryLimit && p.retryLimit ≤ 15)
    && (10 ≤ p.retryInterval && p.retryInterval ≤ 2000) && p.busyLimit ≤ 15
    && (10 ≤ p.busyHold && p.busyHold ≤ 5000) && (100 ≤ p.lifetime && p.lifetime ≤ 60000)
    && (100 ≤ p.dupHold && p.dupHold ≤ 10000) && (8 ≤ p.plainReserve && p.plainReserve ≤ 192)
    && p.lowMark ≤ 383 && (1 ≤ p.lease && p.lease ≤ 255) && (1 ≤ p.eventRepeat && p.eventRepeat ≤ 60)

/-- The active and the staged parameters lie within their ranges (R134). -/
def State.paramsOk (s : State) : Bool :=
  s.params.inRanges && s.session.all (fun c => c.staged.params.inRanges)

/-- OWN is an individual number, and the tables hold individual numbers other than OWN, each once, within their limits
(R2, R43, R87, R137). -/
def State.tablesOk (s : State) : Bool :=
  isIndividual s.own
    && ascending StationEntry.station s.stations
    && s.stations.all (fun e => isIndividual e.station && e.station != s.own && (e.isLoaded || !e.manage))
    && s.stations.length ≤ 256
    && ascending DupEntry.source s.dups
    && s.dups.all (fun e => isIndividual e.source)
    && s.dups.length ≤ 128
    && s.session.all (fun c =>
        ascending StagedEntry.station c.staged.entries
          && c.staged.entries.all (fun e => isIndividual e.station && e.station != s.own)
          && c.staged.entries.length ≤ 256)

/-- The queues stay within their limits (R82, R101). -/
def State.queuesOk (s : State) : Bool :=
  s.queueA.length ≤ 48 && s.queueB.length ≤ 48 && s.requests.length ≤ 4

/-! ## What a step leaves as it was -/

/-- The active configuration and the sampled straps. -/
def KeepsConfig (s t : State) : Prop :=
  t.own = s.own ∧ t.rate = s.rate ∧ t.params = s.params ∧ t.groupsAB = s.groupsAB ∧ t.groupsBA = s.groupsBA
    ∧ t.epoch = s.epoch

/-- The Station Table and the duplicate table. -/
def KeepsTables (s t : State) : Prop := t.stations = s.stations ∧ t.dups = s.dups

/-- The plain queues. -/
def KeepsPlainQueues (s t : State) : Prop := t.queueA = s.queueA ∧ t.queueB = s.queueB

/-- The records, their descriptors and cells, and the own-sequence counter. -/
def KeepsRecords (s t : State) : Prop := t.records = s.records ∧ t.free = s.free ∧ t.ownSeq = s.ownSeq

/-- The management request queue, the session and restart pending. -/
def KeepsManagement (s t : State) : Prop :=
  t.requests = s.requests ∧ t.session = s.session ∧ t.restart = s.restart

/-- The event sets, the event station, the EVENT record and the repeat timer. -/
def KeepsEvents (s t : State) : Prop :=
  t.latched = s.latched ∧ t.mask = s.mask ∧ t.reported = s.reported ∧ t.eventStation = s.eventStation
    ∧ t.eventRecord = s.eventRecord ∧ t.repeatTimer = s.repeatTimer

/-- The reset pin, the straps last seen, the aging tick and the commands that wait. -/
def KeepsRest (s t : State) : Prop :=
  t.held = s.held ∧ t.pins = s.pins ∧ t.nextTick = s.nextTick ∧ t.pending = s.pending

/-- What the end of a step never touches (R26, R175): all but the ports, the records and the Event Unit's own record, claim
and timer. -/
def KeepsAtEnd (s t : State) : Prop :=
  KeepsConfig s t ∧ KeepsTables s t ∧ KeepsPlainQueues s t ∧ KeepsManagement s t ∧ KeepsRest s t
    ∧ t.counters = s.counters ∧ t.mask = s.mask ∧ t.reported = s.reported ∧ t.eventStation = s.eventStation

/-- A record is held with everything but its state as given: the end of a step may only make it SENDING (R113). -/
def Holds (t : State) (n : Nat) (r : Record) : Prop :=
  ∃ q, t.record? n = some q ∧ { q with state := r.state } = r ∧ (q.state = r.state ∨ (r.state = .queued ∧ q.state = .sending))

/-! ## What withdrawals do -/

/-- `q` is the NOTICE that `r` becomes with this reason, in state `s` (R124, R125, R185). -/
def NoticeOf (r : Record) (why : EndReason) (s : State) (q : Record) : Prop :=
  q.number = r.number ∧ q.origin = .relay .notice ∧ q.kind = .notice ∧ q.source = s.own ∧ q.destination = r.source
    ∧ q.inSide = r.outSide ∧ q.outSide = r.inSide ∧ q.state = .queued ∧ q.attempts = 0 ∧ q.busyCount = 0
    ∧ q.retryLimit = s.params.retryLimit ∧ q.busyLimit = s.params.busyLimit
    ∧ q.deadline = s.now + s.params.lifetime * 1000 ∧ q.mark = none ∧ q.rejectReason = none
    ∧ q.payload = [BitVec.ofNat 8 (r.destination / 256), BitVec.ofNat 8 r.destination, r.seq.setWidth 8,
        r.kind.code.setWidth 8, why.code, BitVec.ofNat 8 r.attempts, BitVec.ofNat 8 r.busyCount]

/-- The port after it has dropped a chosen record (R32): from DEFER it is IDLE, in REPLYING it will be. -/
def Dropped (p q : Port) : Prop :=
  (p.state = .defer → q = { p with state := .idle, choice := none, deferral := none, lossCount := 0 })
    ∧ (p.state = .replying → q = { p with returnState := some .idle, choice := none, deferral := none, lossCount := 0 })
    ∧ (p.state ≠ .defer → p.state ≠ .replying → q = p)

/-- A withdrawal cause reaches the FORWARD records that `hit` chooses, and `v` is left of `s` (R121, R32, R124, R80). When
cells are freed the waiting claims are to be tried (R78; log 3). No arbiter has run yet. -/
structure Withdrawn (cause : Mark) (hit : Record → Bool) (s v : State) : Prop where
  atOnce : ∀ n r, s.record? n = some r → hit r = true → s.withdrawal r = .atOnce →
    ∃ q, v.record? n = some q ∧ NoticeOf r cause.reason s q ∧ ∀ p ∈ s.records, p.stamp < q.stamp
  marked : ∀ n r, s.record? n = some r → hit r = true → s.withdrawal r = .marked →
    v.record? n = some { r with mark := some cause }
  others : ∀ n r, s.record? n = some r → hit r = false ∨ s.withdrawal r = .kept → v.record? n = some r
  absent : ∀ n, s.record? n = none → v.record? n = none
  ports : ∀ x, (∀ r ∈ s.records, hit r = true → s.withdrawal r = .atOnce → r.outSide = x →
      (s.port x).choice = some (.record r.number) → Dropped (s.port x) (v.port x))
    ∧ ((∀ r ∈ s.records, hit r = true → s.withdrawal r = .atOnce → r.outSide = x →
      (s.port x).choice ≠ some (.record r.number)) → v.port x = s.port x)
  counters : ∀ c, v.counter c = if c = .noticesCreated then
    saturatingAdd (s.counter c) (s.records.filter (fun r => hit r && s.withdrawal r == .atOnce)).length else s.counter c
  free : v.free = s.free
    + ((s.records.filter (fun r => hit r && s.withdrawal r == .atOnce)).map (fun r => r.cells - 1)).sum
  ownSeq : v.ownSeq = s.ownSeq
    + BitVec.ofNat 4 (s.records.filter (fun r => hit r && s.withdrawal r == .atOnce)).length
  rest : KeepsConfig s v ∧ KeepsTables s v ∧ KeepsPlainQueues s v ∧ KeepsManagement s v ∧ KeepsEvents s v ∧ KeepsRest s v
    ∧ v.now = s.now ∧ v.restartDue = s.restartDue ∧ v.respClaim = s.respClaim ∧ v.eventClaim = s.eventClaim
  flags : v.headDue = s.headDue ∧ v.claimsDue = (s.claimsDue
    || (s.records.filter (fun r => hit r && s.withdrawal r == .atOnce)).any (fun r => decide (1 < r.cells)))

/-! ## The end of a step -/

/-- Port X is IDLE and takes this record as its choice: the oldest eligible one of its side, when no plain telegram waits
or a plain one was taken last (R26, R27, R112). -/
def State.takesRecord (s : State) (x : Side) (r : Record) : Prop :=
  (s.port x).state = .idle ∧ s.candidate x = some r ∧ (s.queue x = [] ∨ (s.port x).lastClass = .plain)

/-- Port X is IDLE and takes the head of its plain queue: no record is eligible, or a record was taken last (R26, R27). -/
def State.takesPlain (s : State) (x : Side) : Prop :=
  (s.port x).state = .idle ∧ s.queue x ≠ [] ∧ (s.candidate x = none ∨ (s.port x).lastClass = .confirmed)

/-- Port X is IDLE with nothing to take, and would take an EVENT record made now: it is the event side, and no record for
the event station waits there (R26, R111). -/
def State.takesEvent (s : State) (x : Side) : Prop :=
  (s.port x).state = .idle ∧ s.candidate x = none ∧ s.queue x = []
    ∧ ∃ station, s.eventStation = some (station, x) ∧ ∀ q ∈ s.records, q.outSide = x → q.destination ≠ station

/-- The Event Unit makes a record at the end of a step whose own effect left `u` and that leaves `t`: nothing is due, the
send condition holds, no claim waits, and a descriptor and a cell are free (R175, R155). -/
def State.makesEvent (u t : State) : Prop :=
  t.due = none ∧ u.sendCondition = true ∧ u.eventClaim = false ∧ 1 ≤ u.freeDescriptors ∧ 1 ≤ u.free

/-- No EVENT record was created. -/
def NoEventMade (u t : State) : Prop :=
  t.records.length = u.records.length ∧ t.free = u.free ∧ t.ownSeq = u.ownSeq ∧ t.latched = u.latched
    ∧ t.eventRecord = u.eventRecord ∧ t.repeatTimer = u.repeatTimer
    ∧ ∀ n, u.record? n = none → t.record? n = none

/-- An EVENT record was created and stands in this state (R175, R109, R185), by a claim of one cell (R81), which latches
CELLS_LOW before the record's set is taken (log 9). -/
def EventMade (u t : State) (state : RecordState) : Prop :=
  t.records.length = u.records.length + 1 ∧ t.free = u.free - 1 ∧ t.ownSeq = u.ownSeq + 1
    ∧ t.latched = (if u.params.lowMark ≤ u.free ∧ u.free - 1 < u.params.lowMark then u.latched ||| 0x2000#16 else u.latched)
    ∧ t.eventRecord = some { record := u.lowestFree, sent := t.latched &&& t.mask } ∧ t.repeatTimer = .stopped
    ∧ (∀ n, n ≠ u.lowestFree → u.record? n = none → t.record? n = none)
    ∧ ∃ station side, u.eventStation = some (station, side)
      ∧ t.record? u.lowestFree = some
          { number := u.lowestFree, origin := .relay .event, kind := .event, source := u.own, destination := station
            seq := u.ownSeq, inSide := side, outSide := side
            payload := [t.epoch.extractLsb' 8 8, t.epoch.extractLsb' 0 8, (t.latched &&& t.mask).extractLsb' 8 8,
              (t.latched &&& t.mask).extractLsb' 0 8]
            stamp := u.newStamp, state := state, attempts := 0, busyCount := 0, retryLimit := u.params.retryLimit
            busyLimit := u.params.busyLimit, deadline := u.now + u.params.lifetime * 1000, mark := none
            rejectReason := none }

/-- `t` is the state a step leaves whose own effect left `u`: at the end of a step the arbiters of IDLE ports run, and with
nothing due the Event Unit creates its record or lets its claim wait, which an IDLE port may then take (R26, R27, R175,
R155; log 8). What the releases and the new head of `u` let pass is due after it, and when nothing is, the tests are over
and a head that was refused has its claim waiting (R78, R153; log 3). Every field is spoken of. -/
structure EndsAs (u t : State) : Prop where
  kept : KeepsAtEnd u t
  clock : t.now = u.now ∧ t.restartDue = u.restartDue
  takesRecord : ∀ x r, u.takesRecord x r →
    t.port x = { u.port x with
      state := .defer, choice := some (.record r.number), lastClass := .confirmed, lossCount := 0, deferral := some 1 }
    ∧ t.record? r.number = some { r with state := .sending }
  takesPlain : ∀ x, u.takesPlain x →
    t.port x = { u.port x with
      state := .defer, choice := some .plain, lastClass := .plain, lossCount := 0, deferral := some 1 }
  takesEvent : ∀ x, u.makesEvent t → u.takesEvent x →
    t.port x = { u.port x with
      state := .defer, choice := some (.record u.lowestFree), lastClass := .confirmed, lossCount := 0, deferral := some 1 }
    ∧ EventMade u t .sending
  takesNothing : ∀ x, (∀ r, ¬ u.takesRecord x r) → ¬ u.takesPlain x → ¬ (u.makesEvent t ∧ u.takesEvent x) →
    t.port x = u.port x
  records : ∀ n r, u.record? n = some r → (∀ x, ¬ u.takesRecord x r) → t.record? n = some r
  event : u.makesEvent t → (∀ x, ¬ u.takesEvent x) → EventMade u t .queued
  noEvent : ¬ u.makesEvent t → NoEventMade u t
  claim : t.eventClaim = (t.sendCondition && (u.eventClaim || t.due.isNone))
  response : t.respClaim = (u.respClaim || (t.due.isNone && u.headDue && !u.requests.isEmpty && u.restart.isNone))
  due : t.due = ({ arbitrateBoth u with eventClaim := u.eventClaim && u.sendCondition } : State).due
  flags : t.claimsDue = (u.claimsDue && t.due.isSome) ∧ t.headDue = (u.headDue && t.due.isSome)

end Sys2Proof.Machine
end

