-- ==== Sys2Proof/Certificates/Slice0/Obligations.lean ====
section
/-! DEFINITION. The statements for the provers. Where a statement says `EndsAs u t`, `u` is what the step's own effect
leaves and `t` what stands when the step is over. The conventions of the model that many of them rest on are the clock
(log 1), the steps that are due (log 3) and the order at the end of a step (log 8). -/

section

open Sys2Proof Sys2Proof.Machine

/-! ## Commands -/

/-- A step is the command at the front of the queue, on the state with the queue's rest; on an empty queue the relay
idles, which is the model's choice (log 2). -/
def Obligations.StepTakesTheFront : Prop :=
  (∀ (c : Instr) (rest : List Instr) (s : State), s.pending = c :: rest → step s = exec c { s with pending := rest })
    ∧ ∀ s : State, s.pending = [] → step s = .next s

/-- No command stops the relay in any state, and none touches the queue of the commands that wait. A command given in a
state in which its rule does not have it happen answers next all the same (log 4). A restart, a waiting claim and a new head
that are due are carried out at once (R78, R153, R167): whatever command comes next, if it is not the due step's own, it
finds the state that the due step leaves (log 3). With nothing due, a command that grants a claim, executes the head or
carries out a restart changes nothing (log 4), but for the strap levels that RESTART_FULL brings (log 22). -/
def Obligations.EveryCommandCompletes : Prop :=
  (∀ (c : Instr) (s : State), ∃ t, exec c s = .next t ∧ t.pending = s.pending)
  ∧ ∀ s : State,
    let isDue (k : Instr) : Prop :=
      (∃ q rest, s.executing q rest ∧ executes k = some q.command)
        ∨ (s.due = some .responseClaim ∧ k = .responseClaimGranted)
        ∨ (s.due = some .eventClaim ∧ k = .eventClaimGranted)
        ∨ (s.due = some (.restart .queues) ∧ k = .restartQueues)
        ∨ (s.due = some (.restart .full) ∧ ∃ straps, k = .restartFull straps)
    (s.due ≠ none → ∃ k, isDue k)
    ∧ (∀ (k c : Instr) (t : State), isDue k → (∀ straps, k = .restartFull straps → straps = s.pins) → exec k s = .next t →
      ¬ isDue c → exec c s = exec c t)
    ∧ (s.due = none →
      (∀ c, (executes c ≠ none ∨ c ∈ [Instr.responseClaimGranted, .eventClaimGranted, .restartQueues]) → exec c s = .next s)
      ∧ ∀ straps, exec (.restartFull straps) s = .next { s with pins := straps })

/-! ## Telegrams on the line -/

/-- What the relay sends, a port reads back: every lawful telegram passes R8 and R9 as the telegram it is (R184, R7). -/
def Obligations.TelegramRoundTrip : Prop :=
  ∀ t : Telegram, fieldsOk 0#2 t.payload.length t = true → t.dst ≤ 2047 → checkReception t.toLine = .wellFormed t

/-- Only a lawful telegram's own bytes pass R8 and R9; lawful is what R9's conditions say, over the kinds of R5 and
the station numbers of R1. -/
def Obligations.ReceptionIsATelegram : Prop :=
  (∀ (bytes : List Byte) (t : Telegram), checkReception bytes = .wellFormed t →
    t.toLine = bytes ∧ fieldsOk 0#2 t.payload.length t = true ∧ t.dst ≤ 2047
      ∧ 7 ≤ bytes.length ∧ bytes.length ≤ 247)
  ∧ (∀ (reserved : BitVec 2) (len : Nat) (t : Telegram), fieldsOk reserved len t = true ↔
      len ≤ 240 ∧ len = t.payload.length ∧ reserved = 0#2 ∧ 1 ≤ t.src ∧ t.src ≤ 1983 ∧ t.dst ≠ 0
        ∧ (t.kind.isConfirmed = true ∨ t.kind.isReply = true → t.dst < 1984)
        ∧ (t.kind = .ack ∨ t.kind = .busy → len = 0) ∧ (t.kind = .reject → len = 1)
        ∧ (t.kind = .sreset → t.dst = 2047 ∧ len = 0))
  ∧ (∀ k : Kind, (k.isConfirmed = true ↔ k ∈ [Kind.cdata, .mreq, .mrsp, .event, .notice])
      ∧ (k.isReply = true ↔ k ∈ [Kind.ack, .busy, .reject]))
  ∧ ∀ n, (isIndividual n = true ↔ 1 ≤ n ∧ n ≤ 1983) ∧ (isGroup n = true ↔ 1984 ≤ n ∧ n ≤ 2046)

/-- The bytes of a telegram (R184): the header's fields at their bits, the payload, and the check word high byte
first; the codes of the ten kinds, an undefined one failing R9; the codes of the REJECT and the NOTICE reasons. With
them the remainder of R7, bit by bit, and R7's note, that the nine bytes 49 to 57 give 10673, and two headers written
out. -/
def Obligations.LineWords : Prop :=
  (checkWord [49, 50, 51, 52, 53, 54, 55, 56, 57] = 10673#16
    ∧ headerBytes { dst := 407, src := 12, kind := .cdata, seq := 5#4, payload := [1, 2] } = [0x32, 0xE0, 0x30, 0x94, 0x02]
    ∧ headerBytes { dst := 2047, src := 1983, kind := .sreset, seq := 15#4, payload := [] }
        = [0xFF, 0xFE, 0xFD, 0xFC, 0x00])
  ∧ (∀ t : Telegram, t.dst ≤ 2047 → t.src ≤ 2047 → t.payload.length ≤ 255 →
      ∃ b0 b1 b2 b3 b4 c1 c0 : Byte, t.toLine = [b0, b1, b2, b3, b4] ++ t.payload ++ [c1, c0]
        ∧ b0.toNat = t.dst / 8
        ∧ b1.toNat = t.dst % 8 * 32 + t.src / 64
        ∧ b2.toNat = t.src % 64 * 4 + t.kind.code.toNat / 4
        ∧ b3.toNat = t.kind.code.toNat % 4 * 64 + t.seq.toNat * 4
        ∧ b4.toNat = t.payload.length
        ∧ c1.toNat * 256 + c0.toNat = (checkWord ([b0, b1, b2, b3, b4] ++ t.payload)).toNat)
  ∧ (Kind.pdata.code = 1#4 ∧ Kind.cdata.code = 2#4 ∧ Kind.mreq.code = 3#4 ∧ Kind.mrsp.code = 4#4 ∧ Kind.event.code = 5#4
    ∧ Kind.notice.code = 6#4 ∧ Kind.sreset.code = 7#4 ∧ Kind.ack.code = 8#4 ∧ Kind.busy.code = 9#4
    ∧ Kind.reject.code = 10#4)
  ∧ (∀ (b0 b1 b2 b3 b4 : Byte) (payload : List Byte),
      (b2.toNat % 4 * 4 + b3.toNat / 64 = 0 ∨ 11 ≤ b2.toNat % 4 * 4 + b3.toNat / 64) →
      parseBody (b0 :: b1 :: b2 :: b3 :: b4 :: payload) = none)
  ∧ (RejectReason.notAdmitted.code = 1#8 ∧ RejectReason.pathDown.code = 2#8 ∧ RejectReason.unknownDest.code = 3#8
    ∧ RejectReason.noService.code = 4#8)
  ∧ (EndReason.noReply.code = 1#8 ∧ EndReason.noAccess.code = 2#8 ∧ EndReason.busyLimit.code = 3#8
    ∧ EndReason.rejected.code = 4#8 ∧ EndReason.expired.code = 5#8 ∧ EndReason.purged.code = 6#8
    ∧ EndReason.unrouted.code = 7#8 ∧ EndReason.segmentReset.code = 8#8)
  ∧ checkWord [] = 0xFFFF#16
  ∧ ∀ (bytes : List Byte) (b : Byte), checkWord (bytes ++ [b]) = [7, 6, 5, 4, 3, 2, 1, 0].foldl
      (fun (reg : BitVec 16) i => (reg <<< 1) ^^^ (if reg.msb ≠ b.getLsbD i then 0x1021#16 else 0#16)) (checkWord bytes)

/-! ## Reset and restarts -/

/-- HARDWARE_RESET gives every block its hardware-reset values in any state (R189, R188, R2, R19, R133, R134, R135),
the eighteen defaults and a port's values spelled out. The clock, the LINE_OK levels and the queue are not part of
the reset. That a port's line-quiet measure starts at the reset is the model's choice (log 26), and that the straps come
with the command, and are kept as the pins last seen, too (log 22). -/
def Obligations.HardwareReset : Prop :=
  (∀ (dt : Nat) (straps : Straps) (s : State), ∃ t, exec (.hardwareReset dt straps) s = .next t
    ∧ (1 ≤ straps.station.toNat → straps.station.toNat ≤ 1983 → t.own = straps.station.toNat ∧ t.latched = 0x0001#16)
    ∧ (straps.station.toNat = 0 ∨ 1984 ≤ straps.station.toNat → t.own = 1983 ∧ t.latched = 0x0003#16)
    ∧ (s.due = none → t.now = s.now + dt) ∧ t.rate = straps.rate
    ∧ t.params = Params.defaults (if straps.start then .forward else .isolate)
    ∧ t.pins = straps ∧ t.held = false
    ∧ (∀ x, ∃ level, t.port x = Port.afterReset t.now level ∧ (s.due = none → level = (s.port x).lineOk))
    ∧ t.nextTick = t.now + 1000000
    ∧ t.stations = [] ∧ t.dups = [] ∧ t.records = [] ∧ t.queueA = [] ∧ t.queueB = [] ∧ t.requests = [] ∧ t.free = 384
    ∧ t.ownSeq = 0#4 ∧ t.epoch = 0#16 ∧ t.groupsAB = BitVec.allOnes 63 ∧ t.groupsBA = BitVec.allOnes 63
    ∧ t.session = none ∧ t.restart = none ∧ t.respClaim = false ∧ t.eventClaim = false
    ∧ (∀ c, t.counter c = 0#32)
    ∧ t.mask = 0xFFFF#16 ∧ t.reported = 0#16 ∧ t.eventStation = none ∧ t.eventRecord = none ∧ t.repeatTimer = .stopped)
  ∧ (∀ mode : Mode, Params.defaults mode =
      { mode := mode, unknownPolicy := .pass, broadcastAB := .pass, broadcastBA := .pass, sresetPass := false, learn := true
        learnAdmit := .both, ageLimit := 300, retryLimit := 4, retryInterval := 40, busyLimit := 8, busyHold := 200
        lifetime := 5000, dupHold := 2000, plainReserve := 48, lowMark := 32, lease := 30, eventRepeat := 5 })
  ∧ ∀ (now : Nat) (level : Bool), Port.afterReset now level =
      { state := .down, choice := none, lossCount := 0, deferral := none, lastClass := .plain, returnState := none
        awaited := none, replyTimer := .stopped, staging := .empty, lineOk := level, lineOkSince := now, quietSince := now
        reply := none, txd := [] }

/-- The state after reset is what HARDWARE_RESET leaves it, and it meets the laws of the state. The straps and the
LINE_OK levels it has are the model's choice (log 5, log 6), and so are the moment 0 of its clock and of its measures
(log 26). -/
def Obligations.ResetMeetsTheLaws : Prop :=
  exec (.hardwareReset 0 State.reset.pins) State.reset = .next State.reset
    ∧ State.reset.balanced = true ∧ State.reset.forwardBounded = true ∧ State.reset.eventSetsOk = true
    ∧ State.reset.portsLegal = true ∧ State.reset.matched = true ∧ State.reset.paramsOk = true ∧ State.reset.tablesOk = true
    ∧ State.reset.queuesOk = true

/-- RESET_N (R189): a low pulse under 10 µs does nothing; a longer one holds the relay in reset, in which it does not
drive its lines and nothing but the clock and the pins changes until the rising edge. What the relay holds meanwhile is
the model's reading (log 15); that RESET_N_LOW is one step whose length decides, and the short pulse's own time not
counted, is its choice (log 23). -/
def Obligations.ResetPin : Prop :=
  (∀ (dt lowFor : Nat) (s : State), s.due = none → lowFor < 10 →
      exec (.resetNLow dt lowFor) s = .next { s with now := s.now + dt })
    ∧ (∀ (dt lowFor : Nat) (s : State), s.due = none → 10 ≤ lowFor →
      exec (.resetNLow dt lowFor) s =
        .next { s with
          now := s.now + dt + lowFor, held := true
          portA := { s.portA with txd := [] }, portB := { s.portB with txd := [] } })
    ∧ (∀ (s : State) (x : Side), s.held = true → s.txen x = false)
    ∧ ∀ (c : Instr) (s : State), s.held = true → (∀ dt straps, c ≠ .hardwareReset dt straps) →
      (∀ dt x level, c ≠ .lineOkChange dt x level) → (∀ dt lowFor, c ≠ .resetNLow dt lowFor) →
      ∃ t, exec c s = .next t ∧ t = { s with now := t.now, pins := t.pins } ∧ s.now ≤ t.now

/-- RESTART QUEUES, when its response has ended (R168, R39, R84, R131, R92, R151, R182). -/
def Obligations.RestartQueues : Prop :=
  ∀ (s : State) (n : Nat), s.held = false → s.restartDue = true → s.restart = some { kind := .queues, record := n } →
    ∃ u t, exec .restartQueues s = .next t ∧ EndsAs u t
      ∧ (∀ x, (s.port x).state = .down → u.port x = s.port x)
      ∧ (∀ x, (s.port x).state ≠ .down → u.port x =
          { s.port x with
            state := .idle, choice := none, lossCount := 0, deferral := none, returnState := none, awaited := none
            replyTimer := .stopped, reply := none, txd := []
            quietSince := if (s.port x).state = .sending ∨ (s.port x).state = .replying then s.now
              else (s.port x).quietSince })
      ∧ u.records = [] ∧ u.free = 384 ∧ u.queueA = [] ∧ u.queueB = [] ∧ u.requests = [] ∧ u.dups = []
      ∧ u.session = none ∧ u.restart = none ∧ u.restartDue = false ∧ u.respClaim = false ∧ u.eventClaim = false
      ∧ u.claimsDue = false ∧ u.headDue = false
      ∧ (∀ c, c ≠ .custodyDiscarded → u.counter c = 0#32)
      ∧ u.counter .custodyDiscarded = saturatingAdd (s.counter .custodyDiscarded) s.forwardCount
      ∧ u.latched = s.latched ||| 0x0001#16 ∧ u.reported = 0#16 ∧ u.eventRecord = none ∧ u.repeatTimer = .stopped
      ∧ u.mask = s.mask ∧ u.eventStation = s.eventStation ∧ u.stations = s.stations ∧ u.ownSeq = s.ownSeq
      ∧ KeepsConfig s u ∧ KeepsRest s u ∧ u.now = s.now

/-- RESTART FULL, when its response has ended, completes as a hardware reset of the whole part at that moment (R169),
with the values HARDWARE_RESET gives. The straps come with the command (log 22); that a port's line-quiet measure starts
at the reset is the model's choice (log 26). -/
def Obligations.RestartFull : Prop :=
  ∀ (s : State) (straps : Straps) (n : Nat), s.held = false → s.restartDue = true →
    s.restart = some { kind := .full, record := n } →
    ∃ t, exec (.restartFull straps) s = .next t
      ∧ exec (.hardwareReset 0 straps) { s with held := true } = .next t
      ∧ t.now = s.now ∧ t.held = false ∧ t.rate = straps.rate
      ∧ (1 ≤ straps.station.toNat → straps.station.toNat ≤ 1983 → t.own = straps.station.toNat ∧ t.latched = 0x0001#16)
      ∧ (straps.station.toNat = 0 ∨ 1984 ≤ straps.station.toNat → t.own = 1983 ∧ t.latched = 0x0003#16)
      ∧ t.params = Params.defaults (if straps.start then .forward else .isolate) ∧ t.epoch = 0#16 ∧ t.ownSeq = 0#4
      ∧ (∀ x, t.port x = Port.afterReset s.now (s.port x).lineOk) ∧ t.nextTick = s.now + 1000000
      ∧ t.records = [] ∧ t.queueA = [] ∧ t.queueB = [] ∧ t.requests = [] ∧ t.dups = [] ∧ t.stations = [] ∧ t.free = 384
      ∧ t.session = none ∧ t.restart = none ∧ t.restartDue = false ∧ t.respClaim = false ∧ t.eventClaim = false
      ∧ (∀ c, t.counter c = 0#32) ∧ t.eventStation = none ∧ t.eventRecord = none ∧ t.repeatTimer = .stopped

/-! ## Line ports -/

/-- LINE_OK takes a level (R21): a change of level starts the debounce measure again, whatever the port state. The level
already seen is no change (log 4). -/
def Obligations.LineOkChange : Prop :=
  ∀ (dt : Nat) (x : Side) (level : Bool) (s : State), s.due = none →
    exec (.lineOkChange dt x level) s =
      .next (if (s.port x).lineOk = level then elapse dt s
        else setPort x { s.port x with lineOk := level, lineOkSince := s.now + dt } (elapse dt s))

/-- LINE_DOWN (R22, R129, R84): the port gives up what it does, its record returns to QUEUED, or ends with its mark's
reason (R122), its plain queue is flushed and LINE_DOWN latched. The clock moves to the moment (log 1). That the port's
line-quiet measure starts at that moment is the model's choice (log 26). -/
def Obligations.LineDown : Prop :=
  (∀ (x : Side) (s : State), s.ready = true → s.numbered = true → (s.port x).state ≠ .down → (s.port x).lineOk = false →
    let p := s.port x
    let now := max s.now (p.lineOkSince + 10000)
    let s1 := setPort x
      { p with
        state := .down, choice := none, lossCount := 0, deferral := none, returnState := none, awaited := none
        replyTimer := .stopped, staging := .empty, quietSince := now, reply := none, txd := [] }
      { s with now := now }
    ((∀ n r, p.heldRecord = some n → s.record? n = some r → r.mark = none) →
      ∃ t, exec (.lineDown x) s = .next t
        ∧ EndsAs (latch (.lineDown x) (countBy (.plainDropped x) (s.queue x).length
            { setQueue x [] s1 with
              free := s.free + sumCells PlainEntry.cells (s.queue x)
              claimsDue := s.claimsDue || !(s.queue x).isEmpty
              records := s.records.map
                (fun r => if p.heldRecord = some r.number then { r with state := .queued } else r) })) t)
    ∧ ∀ n r m, p.heldRecord = some n → s.record? n = some r → r.mark = some m →
      ∃ t, exec (.lineDown x) s = .next t
        ∧ EndsAs (latch (.lineDown x) (flushQueue x (endUndelivered r m.reason s1))) t)
  ∧ (∀ p : Port, (∀ n, p.choice = some (.record n) → p.heldRecord = some n)
      ∧ ((∀ n, p.choice ≠ some (.record n)) → p.heldRecord = p.awaited))
  ∧ ∀ (x : Side) (s : State), (s.queue x = [] → flushQueue x s = s)
      ∧ (s.queue x ≠ [] → flushQueue x s = countBy (.plainDropped x) (s.queue x).length
        { setQueue x [] s with free := s.free + sumCells PlainEntry.cells (s.queue x), claimsDue := true })

/-- LINE_UP (R23): the port enters IDLE with its quiet measure at its start, latches LINE_UP and runs its arbiter. The
clock moves to the moment (log 1). Activity that began while the port was DOWN is taken as none (log 29). -/
def Obligations.LineUp : Prop :=
  ∀ (x : Side) (s : State), s.ready = true → s.numbered = true → (s.port x).state = .down → (s.port x).lineOk = true →
    let now := max s.now ((s.port x).lineOkSince + 100000)
    ∃ t, exec (.lineUp x) s = .next t
      ∧ EndsAs (latch (.lineUp x)
          (setPort x { s.port x with state := .idle, staging := .empty, quietSince := now } { s with now := now })) t

/-- LINE_ACTIVITY_START (R25, R29, R36, R34): the port collects a reception; in AWAIT_REPLY within 120 bit times the
reply timer is held (at 120 itself too, log 24), and past them it is left as it is (log 24); while the port replies the
activity is passed over. Activity reported to a port that is DOWN or sends changes nothing but the clock (log 4). -/
def Obligations.LineActivityStart : Prop :=
  ∀ (dt : Nat) (x : Side) (s : State), s.ready = true →
    let p := s.port x
    ((p.state = .idle ∨ p.state = .defer) →
      exec (.lineActivityStart dt x) s = .next (setPort x { p with staging := .collecting } (elapse dt s)))
    ∧ (∀ since, p.state = .awaitReply → p.replyTimer = .running since → s.now + dt ≤ since + 120 * s.bitTime →
      exec (.lineActivityStart dt x) s =
        .next (setPort x { p with staging := .collecting, replyTimer := .held } (elapse dt s)))
    ∧ (∀ since, p.state = .awaitReply → p.replyTimer = .running since → since + 120 * s.bitTime < s.now + dt →
      exec (.lineActivityStart dt x) s = .next (setPort x { p with staging := .collecting } (elapse dt s)))
    ∧ (p.state = .awaitReply → p.replyTimer = .held →
      exec (.lineActivityStart dt x) s = .next (setPort x { p with staging := .collecting } (elapse dt s)))
    ∧ (p.state = .replying →
      exec (.lineActivityStart dt x) s = .next (setPort x { p with staging := .passedOver } (elapse dt s)))
    ∧ ((p.state = .down ∨ p.state = .sending) → exec (.lineActivityStart dt x) s = .next (elapse dt s))

/-- QUIET_WAIT_COMPLETE (R29, R7): after 48 bit times and the deferral in slots of 16 the port starts its chosen
telegram, with a fresh check word. What it sends are the record's own fields, or the head of the plain queue (R18),
and the bit time is that of its rate (R3, R188). The clock moves to the moment (log 1). -/
def Obligations.QuietWaitComplete : Prop :=
  (∀ (x : Side) (s : State) (slots : Nat) (t0 : Telegram), s.ready = true → (s.port x).state = .defer →
    (s.port x).staging = .empty → (s.port x).deferral = some slots → s.chosenTelegram x = some t0 →
    exec (.quietWaitComplete x) s =
      .next (setPort x { s.port x with state := .sending, txd := t0.toLine }
        { s with now := max s.now ((s.port x).quietSince + (48 + 16 * slots) * s.bitTime) }))
  ∧ (∀ (x : Side) (s : State),
      (∀ n r, (s.port x).choice = some (.record n) → s.record? n = some r → s.chosenTelegram x =
        some { dst := r.destination, src := r.source, kind := r.kind, seq := r.seq, payload := r.payload })
      ∧ (∀ e rest, (s.port x).choice = some .plain → s.queue x = e :: rest → s.chosenTelegram x = some e.telegram)
      ∧ ((s.port x).choice = none → s.chosenTelegram x = none))
  ∧ ∀ s : State, (s.rate = 0#2 → s.bitTime = 16) ∧ (s.rate = 1#2 → s.bitTime = 8) ∧ (s.rate = 2#2 → s.bitTime = 4)
      ∧ (s.rate = 3#2 → s.bitTime = 2)

/-- CONTENTION_LOSS below the 16th (R30): the port returns to DEFER with the deferral of the new loss count; a marked
record ends with its mark's reason and the port drops it (R122, R32). A loss reported in any other state changes nothing
but the clock (log 4). -/
def Obligations.ContentionLoss : Prop :=
  ∀ (dt : Nat) (x : Side) (s : State), s.ready = true → s.numbered = true →
    let p := s.port x
    let losses := p.lossCount + 1
    let s1 := count (.contentionLosses x) (elapse dt s)
    (p.state = .sending → losses < 16 →
      (∀ n r, p.choice = some (.record n) → s.record? n = some r → r.mark = none) →
      ∃ t, exec (.contentionLoss dt x) s = .next t
        ∧ EndsAs (setPort x
            { p with
              state := .defer, lossCount := losses, deferral := some (if losses ≤ 4 then 2 ^ losses else 32)
              txd := [], staging := .collecting } s1) t)
    ∧ (∀ n r m, p.state = .sending → losses < 16 → p.choice = some (.record n) → s.record? n = some r →
      r.mark = some m →
      ∃ t, exec (.contentionLoss dt x) s = .next t
        ∧ EndsAs (endUndelivered r m.reason (setPort x
            { p with
              state := .idle, choice := none, lossCount := 0, deferral := none, txd := [], staging := .collecting }
            s1)) t)
    ∧ (p.state ≠ .sending → exec (.contentionLoss dt x) s = .next (elapse dt s))

/-- The 16th CONTENTION_LOSS (R31, R118): the port gives the telegram up and enters IDLE; a plain one is dropped with
its cells, a record's attempt ends as NO_ACCESS. -/
def Obligations.ContentionGiveUp : Prop :=
  ∀ (dt : Nat) (x : Side) (s : State), s.ready = true → s.numbered = true → (s.port x).state = .sending →
    15 ≤ (s.port x).lossCount →
    let s1 := setPort x
      { s.port x with
        state := .idle, choice := none, lossCount := 0, deferral := none, txd := [], staging := .collecting }
      (count (.contentionLosses x) (elapse dt s))
    (∀ e rest, (s.port x).choice = some .plain → s.queue x = e :: rest →
      ∃ t, exec (.contentionLoss dt x) s = .next t
        ∧ EndsAs (count (.plainDropped x) { setQueue x rest s1 with free := s.free + e.cells, claimsDue := true }) t)
    ∧ ∀ n r, (s.port x).choice = some (.record n) → s.record? n = some r →
      ∃ t, exec (.contentionLoss dt x) s = .next t ∧ EndsAs (outcomeFailed r .noAccess s1) t

/-- TRANSMIT_DONE of a record (R33, R36): it is AWAITING, and the port awaits its reply with the timer running
from now. -/
def Obligations.TransmitDoneOfARecord : Prop :=
  ∀ (dt : Nat) (x : Side) (s : State) (n : Nat), s.ready = true → (s.port x).state = .sending →
    (s.port x).choice = some (.record n) →
    exec (.transmitDone dt x) s =
      .next (updateRecord n (fun r => { r with state := .awaiting })
        (setPort x
          { s.port x with
            state := .awaitReply, choice := none, lossCount := 0, deferral := none, awaited := some n
            replyTimer := .running (s.now + dt), staging := .empty, quietSince := s.now + dt, txd := [] }
          (count (.txTelegrams x) (elapse dt s))))

/-- TRANSMIT_DONE of a plain telegram (R33): its entry leaves with its cells and the port is IDLE; a forwarded SRESET
then resets the segment (R53). -/
def Obligations.TransmitDoneOfAPlainTelegram : Prop :=
  (∀ (dt : Nat) (x : Side) (s : State) (e : PlainEntry) (rest : List PlainEntry), s.ready = true → s.numbered = true →
    (s.port x).state = .sending → (s.port x).choice = some .plain → s.queue x = e :: rest →
    let s1 := setPort x
      { s.port x with
        state := .idle, choice := none, lossCount := 0, deferral := none, staging := .empty
        quietSince := s.now + dt, txd := [] }
      (count (.txTelegrams x) (elapse dt s))
    (e.telegram.kind ≠ .sreset →
      ∃ t, exec (.transmitDone dt x) s = .next t
        ∧ EndsAs { setQueue x rest s1 with free := s.free + e.cells, claimsDue := true } t)
    ∧ (e.telegram.kind = .sreset →
      ∃ t, exec (.transmitDone dt x) s = .next t ∧ EndsAs (segmentReset x (releaseHead x s1)) t))
  ∧ ∀ (x : Side) (s : State) (e : PlainEntry) (rest : List PlainEntry), s.queue x = e :: rest →
      releaseHead x s = { setQueue x rest s with free := s.free + e.cells, claimsDue := true }

/-- REPLY_SENT (R34, R35): a BUSY or REJECT is counted, and the port goes back to its return state, its quiet wait
counted from now. -/
def Obligations.ReplySent : Prop :=
  ∀ (dt : Nat) (x : Side) (s : State) (r : Reply), s.ready = true → s.numbered = true → (s.port x).state = .replying →
    (s.port x).reply = some r →
    let p : Port := { s.port x with
      state := if (s.port x).returnState = some .defer then .defer else .idle
      returnState := none, reply := none, txd := [], quietSince := s.now + dt }
    ∃ t, exec (.replySent dt x) s = .next t
      ∧ (r.kind = .busy → EndsAs (setPort x p (count (.busyGiven x) (elapse dt s))) t)
      ∧ (∀ reason, r.kind = .final (.reject reason) → EndsAs (setPort x p (count (.rejectGiven x) (elapse dt s))) t)
      ∧ (r.kind = .final .ack → EndsAs (setPort x p (elapse dt s)) t)

/-- REPLY_TIMER_EXPIRY (R36): 120 bit times after the record's telegram (log 1) the attempt ends with no reply (R117),
and the port is IDLE. -/
def Obligations.ReplyTimerExpiry : Prop :=
  ∀ (x : Side) (s : State) (since n : Nat) (r : Record), s.ready = true → s.numbered = true →
    (s.port x).state = .awaitReply → (s.port x).replyTimer = .running since → (s.port x).awaited = some n →
    s.record? n = some r →
    ∃ t, exec (.replyTimerExpiry x) s = .next t
      ∧ EndsAs (awaitOver x (outcomeFailed r .noReply { s with now := max s.now (since + 120 * s.bitTime) })) t

/-- The transmit arbiter (R27; R26, R111, R112): with both candidates an IDLE port takes the class it did not serve
last, with one it takes that one, with none it does nothing. The record it takes is the oldest eligible one of its side;
the plain head stays at the head. Nothing else changes. A choice that ends by a drop, a line down, a 16th loss, a
segment reset or a restart leaves the last class served, and the reset of hardware reset and RESTART FULL makes it
PLAIN. -/
def Obligations.ArbiterAlternates : Prop :=
  (∀ (x : Side) (s : State), s.numbered = true →
    (∀ r, s.eligible r = true ↔ r.state = .queued
      ∧ ¬ ∃ q ∈ s.records, q.outSide = r.outSide ∧ q.destination = r.destination ∧ q.stamp < r.stamp)
    ∧ (∀ r, s.candidate x = some r → r.outSide = x ∧ r ∈ s.records ∧ s.eligible r = true
      ∧ ∀ q ∈ s.records, q.outSide = x → s.eligible q = true → r.stamp ≤ q.stamp)
    ∧ (s.candidate x = none → ∀ q ∈ s.records, q.outSide = x → s.eligible q = false)
    ∧ ((s.port x).state ≠ .idle → arbitrate x s = s)
    ∧ (s.candidate x = none → s.queue x = [] → arbitrate x s = s)
    ∧ (∀ r, (s.port x).state = .idle → s.candidate x = some r → (s.queue x = [] ∨ (s.port x).lastClass = .plain) →
      (arbitrate x s).port x =
          { s.port x with
            state := .defer, choice := some (.record r.number), lastClass := .confirmed, lossCount := 0
            deferral := some 1 }
        ∧ (arbitrate x s).record? r.number = some { r with state := .sending }
        ∧ ∀ n, n ≠ r.number → (arbitrate x s).record? n = s.record? n)
    ∧ ((s.port x).state = .idle → s.queue x ≠ [] →
      (s.candidate x = none ∨ (s.port x).lastClass = .confirmed) →
      (arbitrate x s).port x =
          { s.port x with
            state := .defer, choice := some .plain, lastClass := .plain, lossCount := 0, deferral := some 1 }
        ∧ (arbitrate x s).records = s.records)
    ∧ KeepsAtEnd s (arbitrate x s) ∧ (arbitrate x s).port x.other = s.port x.other
    ∧ (arbitrate x s).records.length = s.records.length ∧ (arbitrate x s).now = s.now ∧ (arbitrate x s).free = s.free
    ∧ (arbitrate x s).ownSeq = s.ownSeq ∧ (arbitrate x s).latched = s.latched
    ∧ (arbitrate x s).eventRecord = s.eventRecord ∧ (arbitrate x s).repeatTimer = s.repeatTimer
    ∧ (arbitrate x s).eventClaim = s.eventClaim ∧ (arbitrate x s).respClaim = s.respClaim
    ∧ (arbitrate x s).restartDue = s.restartDue ∧ (arbitrate x s).claimsDue = s.claimsDue
    ∧ (arbitrate x s).headDue = s.headDue)
  ∧ (∀ (p : Port) (now : Nat), p.dropChoice.lastClass = p.lastClass ∧ (p.goDown now).lastClass = p.lastClass
    ∧ p.giveUp.lastClass = p.lastClass ∧ (p.restartQueues now).lastClass = p.lastClass)
  ∧ (∀ (x y : Side) (s : State), ((segmentResetPort x s).port y).lastClass = (s.port y).lastClass)
  ∧ ∀ (straps : Straps) (x : Side) (s : State), ((resetWith straps s).port x).lastClass = .plain

/-! ## Receptions -/

/-- RECEPTION_END of a reception that R8 or R9 discards: it is counted, and nothing else of it is seen; in an awaited
slot it gives no reply (R37, R117). Activity that a port in REPLYING passes over, and one that goes on after the reply,
is presented to no check and not counted: its end starts the quiet wait over (R34, R35). A reception reported to a port
that is DOWN or sends changes nothing but the clock (R24; log 4). -/
def Obligations.DiscardedReception : Prop :=
  (∀ (dt : Nat) (x : Side) (bytes : List Byte) (s : State) (c : Counter), s.ready = true → s.numbered = true →
    ((c = .rxFormatErr x ∧ (bytes.length < 7 ∨ 247 < bytes.length))
      ∨ (c = .rxCheckErr x ∧ 7 ≤ bytes.length ∧ bytes.length ≤ 247
        ∧ beNat (bytes.drop (bytes.length - 2)) ≠ (checkWord (bytes.take (bytes.length - 2))).toNat)
      ∨ (c = .rxFormatErr x ∧ 7 ≤ bytes.length ∧ bytes.length ≤ 247
        ∧ beNat (bytes.drop (bytes.length - 2)) = (checkWord (bytes.take (bytes.length - 2))).toNat
        ∧ parseBody (bytes.take (bytes.length - 2)) = none)) →
    (s.receives x →
      ∃ t, exec (.receptionEnd dt x bytes) s = .next t ∧ EndsAs (count c (s.quiet x dt)) t)
    ∧ ∀ n r, (s.port x).state = .awaitReply → (s.port x).staging ≠ .passedOver → (s.port x).awaited = some n →
      s.record? n = some r →
      ∃ t, exec (.receptionEnd dt x bytes) s = .next t
        ∧ EndsAs (awaitOver x (outcomeFailed r .noReply (count c (s.quiet x dt)))) t)
  ∧ ∀ (dt : Nat) (x : Side) (bytes : List Byte) (s : State), s.ready = true →
    ((s.port x).state = .replying → exec (.receptionEnd dt x bytes) s =
      .next (setPort x { s.port x with staging := .empty, quietSince := s.now + dt } (elapse dt s)))
    ∧ ((s.port x).staging = .passedOver →
      (s.port x).state = .idle ∨ (s.port x).state = .defer ∨ (s.port x).state = .awaitReply →
      exec (.receptionEnd dt x bytes) s =
        .next (setPort x { s.port x with staging := .empty, quietSince := s.now + dt } (elapse dt s)))
    ∧ ((s.port x).state = .down ∨ (s.port x).state = .sending →
      exec (.receptionEnd dt x bytes) s = .next (elapse dt s))

/-- RECEPTION_END of a telegram that the source check discards (R47), and of a stray reply (R50): what is counted and
latched is all that comes of it; a source conflict in an awaited slot gives no reply (R117). -/
def Obligations.DiscardedArrivals : Prop :=
  (∀ (dt : Nat) (x : Side) (bytes : List Byte) (s : State) (t0 : Telegram), s.ready = true → s.numbered = true →
    checkReception bytes = .wellFormed t0 →
    let conflict := t0.src = s.own ∨ ∃ e, s.lookup t0.src = some e ∧ e.origin = .loaded ∧ e.side ≠ x
    let s1 := latch .sourceConflict (count .sourceConflicts (count (.rxGood x) (s.quiet x dt)))
    (s.receives x → conflict → ∃ t, exec (.receptionEnd dt x bytes) s = .next t ∧ EndsAs s1 t)
    ∧ (∀ n r, (s.port x).state = .awaitReply → (s.port x).staging ≠ .passedOver → (s.port x).awaited = some n →
      s.record? n = some r → conflict →
      ∃ t, exec (.receptionEnd dt x bytes) s = .next t ∧ EndsAs (awaitOver x (outcomeFailed r .noReply s1)) t)
    ∧ (s.receives x → ¬ conflict → t0.kind.isReply = true →
      ∃ t, exec (.receptionEnd dt x bytes) s = .next t
        ∧ EndsAs (count (.rxFormatErr x) (s.learned x dt t0.src)) t))
  ∧ ∀ (x : Side) (src : Nat) (s : State), s.sourceConflict x src = true ↔
      src = s.own ∨ ∃ e, s.lookup src = some e ∧ e.origin = .loaded ∧ e.side ≠ x

/-- RECEPTION_END of a slot arrival (R49, R37, R13): a reply that matches by SEQ and DST gives the outcome of its kind,
any other telegram no reply, a non-reply kind being counted as a format error; the port is IDLE. -/
def Obligations.SlotArrival : Prop :=
  (∀ (dt : Nat) (x : Side) (bytes : List Byte) (s : State) (t0 : Telegram) (n : Nat) (r : Record), s.ready = true →
    s.numbered = true → checkReception bytes = .wellFormed t0 → (s.quiet x dt).sourceConflict x t0.src = false →
    (s.port x).state = .awaitReply → (s.port x).staging ≠ .passedOver → (s.port x).awaited = some n →
    let s2 := s.learned x dt t0.src
    s2.record? n = some r →
    ∃ t, exec (.receptionEnd dt x bytes) s = .next t
      ∧ (t0.seq = r.seq → t0.dst = r.source → t0.kind = .ack → EndsAs (awaitOver x (deliver r s2)) t)
      ∧ (t0.seq = r.seq → t0.dst = r.source → t0.kind = .busy → EndsAs (awaitOver x (outcomeBusy r s2)) t)
      ∧ (∀ reason, t0.seq = r.seq → t0.dst = r.source → t0.kind = .reject → t0.payload = [reason] →
        EndsAs (awaitOver x (outcomeReject r reason s2)) t)
      ∧ (t0.kind.isReply = true → (t0.seq ≠ r.seq ∨ t0.dst ≠ r.source) →
        EndsAs (awaitOver x (outcomeFailed r .noReply s2)) t)
      ∧ (t0.kind.isReply = false →
        EndsAs (awaitOver x (outcomeFailed r .noReply (count (.rxFormatErr x) s2))) t))
  ∧ ∀ (x : Side) (s : State), awaitOver x s =
      setPort x { s.port x with state := .idle, awaited := none, replyTimer := .stopped } s

/-- Learning (R48, R63 to R68): an unknown source is placed with the flags of LEARN_ADMIT, or counted and latched when
the table is full; a LEARNED entry is refreshed, or moved with its flags kept, STATION_MOVED latched and the FORWARD
records for the station checked against their new route, after which the arbiters run (log 8); a LOADED one and every
other entry stand, and nothing else changes. -/
def Obligations.Learning : Prop :=
  ∀ (x : Side) (src : Nat) (s : State), ascending StationEntry.station s.stations = true →
    let u := learn x src s
    ((s.params.mode = .isolate ∨ s.params.learn = false) → u = s)
    ∧ (s.params.mode = .forward → s.params.learn = true →
      (s.lookup src = none → s.stations.length < 256 →
        u.lookup src =
          some { station := src, side := x, origin := .learned 0
                 admitPlain := s.params.learnAdmit = .plain ∨ s.params.learnAdmit = .both
                 admitConfirmed := s.params.learnAdmit = .confirmed ∨ s.params.learnAdmit = .both, manage := false }
        ∧ u.stations.length = s.stations.length + 1 ∧ u = { s with stations := u.stations })
      ∧ (s.lookup src = none → 256 ≤ s.stations.length → u = latch .learnFull (count .learnFull s))
      ∧ (∀ e, s.lookup src = some e → e.origin = .loaded → u = s)
      ∧ (∀ e idle, s.lookup src = some e → e.origin = .learned idle →
        u.lookup src = some { e with side := x, origin := .learned 0 } ∧ u.stations.length = s.stations.length
        ∧ (e.side = x → u = { s with stations := u.stations })
        ∧ (e.side ≠ x → s.numbered = true → ∃ v, u = arbitrateBoth v
          ∧ Withdrawn .unrouted
            (fun r => r.origin == .forward && r.destination == src && (r.inSide == x || !e.admitConfirmed))
            { s with stations := u.stations, latched := s.latched ||| 0x0400#16 } v))
      ∧ (∀ n, n ≠ src → u.lookup n = s.lookup n))

/-- RECEPTION_END of a confirmed telegram to be passed from X to Y (R93 to R98, R88, R89, R34): duplicate, path down,
admission, room, take custody, in that order; the first that decides gives the reply, which is on TXD in the same step
(log 25). Its claim is tested before those that wait (log 10). A claim takes its cells from the free count, latching
CELLS_LOW when that crosses LOW_MARK, and the cells follow from the payload length (R75, R76, R81). -/
def Obligations.CustodyAcceptance : Prop :=
  (∀ (dt : Nat) (x : Side) (bytes : List Byte) (s : State) (t0 : Telegram) (admitted : Bool), s.ready = true →
    s.numbered = true → s.receives x → checkReception bytes = .wellFormed t0 → t0.kind.isConfirmed = true →
    (s.quiet x dt).sourceConflict x t0.src = false →
    let s2 := s.learned x dt t0.src
    s2.handsOver x t0.dst admitted →
    ∃ t, exec (.receptionEnd dt x bytes) s = .next t
      ∧ (∀ e, s2.dup? t0.src = some e → e.seq = t0.seq → EndsAs (replies x t0 (.final e.reply) (renewDup x e s2)) t)
      ∧ (s2.isNew t0.src t0.seq →
        ((s2.port x.other).state = .down →
          EndsAs (replies x t0 (.final (.reject .pathDown)) (recordFinal x t0 (.reject .pathDown) s2)) t)
        ∧ ((s2.port x.other).state ≠ .down →
          (admitted = false →
            EndsAs (replies x t0 (.final (.reject .notAdmitted)) (recordFinal x t0 (.reject .notAdmitted) s2)) t)
          ∧ (admitted = true →
            ((s2.freeDescriptors < 5 ∨ s2.free < cellsFor t0.payload.length + 8) → EndsAs (replies x t0 .busy s2) t)
            ∧ (5 ≤ s2.freeDescriptors → cellsFor t0.payload.length + 8 ≤ s2.free →
              EndsAs (replies x t0 (.final .ack) (recordFinal x t0 .ack (count .custodyAccepted
                (insertRecord
                  { number := s2.lowestFree, origin := .forward, kind := t0.kind, source := t0.src
                    destination := t0.dst, seq := t0.seq, inSide := x, outSide := x.other, payload := t0.payload
                    stamp := s2.newStamp, state := .queued, attempts := 0, busyCount := 0
                    retryLimit := s2.params.retryLimit, busyLimit := s2.params.busyLimit
                    deadline := s2.now + s2.params.lifetime * 1000, mark := none, rejectReason := none }
                  (claimCells (cellsFor t0.payload.length) s2))))) t)))))
  ∧ (∀ (n : Nat) (s : State), claimCells n s =
      { s with
        free := s.free - n
        latched := if s.params.lowMark ≤ s.free ∧ s.free - n < s.params.lowMark then s.latched ||| 0x2000#16
          else s.latched })
  ∧ (∀ len, (len ≤ 56 → cellsFor len = 1) ∧ (57 ≤ len → len ≤ 120 → cellsFor len = 2)
    ∧ (121 ≤ len → len ≤ 184 → cellsFor len = 3) ∧ (185 ≤ len → len ≤ 240 → cellsFor len = 4))
  ∧ ∀ (r : Record) (e : PlainEntry) (q : Request), r.cells = cellsFor r.payload.length
      ∧ e.cells = cellsFor e.telegram.payload.length ∧ q.cells = cellsFor q.payload.length

/-- RECEPTION_END of an MREQ to OWN (R101, R102, R88, R89, R153): duplicate, room, accept. Its claim is tested before
those that wait, also when the learning stage has released cells (log 10). An accepted request joins the tail of the
queue. When it becomes the head it is tested: its claim waits, or the relay has a step due, and the head is tested
with it or after it (log 3). The reply is on TXD in the same step (log 25). -/
def Obligations.RequestAcceptance : Prop :=
  ∀ (dt : Nat) (x : Side) (bytes : List Byte) (s : State) (t0 : Telegram), s.ready = true →
    s.numbered = true → s.receives x → checkReception bytes = .wellFormed t0 → t0.kind = .mreq → t0.dst = s.own →
    (s.quiet x dt).sourceConflict x t0.src = false →
    let s2 := s.learned x dt t0.src
    let room := s2.requests.length < 4 ∧ s2.restart = none ∧ cellsFor t0.payload.length ≤ s2.free
    ∃ t, exec (.receptionEnd dt x bytes) s = .next t
      ∧ (∀ e, s2.dup? t0.src = some e → e.seq = t0.seq → EndsAs (replies x t0 (.final e.reply) (renewDup x e s2)) t)
      ∧ (s2.isNew t0.src t0.seq → ¬ room → EndsAs (replies x t0 .busy s2) t)
      ∧ (s2.isNew t0.src t0.seq → room →
        EndsAs (replies x t0 (.final .ack) (recordFinal x t0 .ack
          { claimCells (cellsFor t0.payload.length) s2 with
            requests := s2.requests ++ [{ station := t0.src, side := x, seq := t0.seq, payload := t0.payload }]
            headDue := s2.headDue || s2.requests.isEmpty })) t
        ∧ (s2.requests = [] → (t.due = none → t.respClaim = true) ∧ (t.due ≠ none → t.headDue = true)))

/-- RECEPTION_END of a telegram whose reply the forwarding decision chooses (R51, R52, R60, R104): ACK for a NOTICE
to OWN, NO_SERVICE for another confirmed kind to OWN, UNKNOWN_DEST under UNKNOWN_POLICY REJECT; a duplicate gets its
stored reply. The reply is on TXD in the same step (log 25). What the duplicate table keeps of a decision is spelled
out: a new entry, or the source's own superseded in place; of 128 entries the longest unused, and of those the lowest
source, is evicted and counted (R89, R90); a duplicate renews its entry (R88). The reply's telegram and the port's
state are spelled out too (R18, R34). -/
def Obligations.ChosenReply : Prop :=
  ((∀ (dt : Nat) (x : Side) (bytes : List Byte) (s : State) (t0 : Telegram) (reply : FinalReply), s.ready = true →
    s.numbered = true → s.receives x → checkReception bytes = .wellFormed t0 →
    (s.quiet x dt).sourceConflict x t0.src = false →
    let s2 := s.learned x dt t0.src
    ((t0.dst = s.own ∧ t0.kind = .notice ∧ reply = .ack)
      ∨ (t0.dst = s.own ∧ (t0.kind = .cdata ∨ t0.kind = .mrsp ∨ t0.kind = .event) ∧ reply = .reject .noService)
      ∨ (t0.dst ≠ s.own ∧ t0.kind.isConfirmed = true ∧ s.params.mode = .forward ∧ s2.lookup t0.dst = none
        ∧ s.params.unknownPolicy = .reject ∧ reply = .reject .unknownDest)) →
    ∃ t, exec (.receptionEnd dt x bytes) s = .next t
      ∧ (∀ e, s2.dup? t0.src = some e → e.seq = t0.seq → EndsAs (replies x t0 (.final e.reply) (renewDup x e s2)) t)
      ∧ (s2.isNew t0.src t0.seq → EndsAs (replies x t0 (.final reply) (recordFinal x t0 reply s2)) t))
  ∧ ∀ (x : Side) (t0 : Telegram) (reply : FinalReply) (s : State), ascending DupEntry.source s.dups = true →
    let u := recordFinal x t0 reply s
    u.dup? t0.src = some { source := t0.src, seq := t0.seq, arrivalSide := x, reply := reply, lastUse := s.now }
    ∧ ((s.dup? t0.src ≠ none ∨ s.dups.length < 128) →
      (∀ n, n ≠ t0.src → u.dup? n = s.dup? n) ∧ u = { s with dups := u.dups }
      ∧ u.dups.length = s.dups.length + (if s.dup? t0.src = none then 1 else 0))
    ∧ (s.dup? t0.src = none → 128 ≤ s.dups.length →
      ∃ g ∈ s.dups, (∀ f ∈ s.dups, g.lastUse < f.lastUse ∨ (g.lastUse = f.lastUse ∧ g.source ≤ f.source))
        ∧ u.dup? g.source = none ∧ (∀ n, n ≠ t0.src → n ≠ g.source → u.dup? n = s.dup? n)
        ∧ u = count .dupEvicted { s with dups := u.dups } ∧ u.dups.length = s.dups.length)
    ∧ ∀ e, s.dup? t0.src = some e →
      let w := renewDup x e s
      w.dup? t0.src = some { e with arrivalSide := x, lastUse := s.now } ∧ (∀ n, n ≠ t0.src → w.dup? n = s.dup? n)
      ∧ w = count .duplicatesAnswered { s with dups := w.dups } ∧ w.dups.length = s.dups.length)
  ∧ ∀ (x : Side) (t0 : Telegram) (kind : ReplyKind) (s : State), replies x t0 kind s =
      setPort x { s.port x with
        state := .replying
        returnState := some (if (s.port x).state = .defer then .defer else .idle)
        reply := some { addressee := t0.src, seq := t0.seq, kind := kind }
        txd := Telegram.toLine
          { dst := t0.src, src := s.own, seq := t0.seq
            kind := match kind with
              | .busy => .busy
              | .final .ack => .ack
              | .final (.reject _) => .reject
            payload := match kind with
              | .final (.reject reason) => [reason.code]
              | _ => [] } } s

/-- RECEPTION_END of a PDATA (R55 to R57, R59 to R61, R83): it joins the tail of the other side's plain queue, is
dropped and counted there when that port is DOWN, the queue full or the reserve would be broken, or is discarded. Its
claim is tested before those that wait, also when the learning stage has released cells (log 10). -/
def Obligations.PlainCrossing : Prop :=
  (∀ (dt : Nat) (x : Side) (bytes : List Byte) (s : State) (t0 : Telegram), s.ready = true →
    s.numbered = true → s.receives x → checkReception bytes = .wellFormed t0 → t0.kind = .pdata →
    (s.quiet x dt).sourceConflict x t0.src = false →
    let s2 := s.learned x dt t0.src
    let cells := cellsFor t0.payload.length
    let fits := (s2.port x.other).state ≠ .down ∧ (s2.queue x.other).length < 48
      ∧ cells + s2.params.plainReserve ≤ s2.free
    ∃ t, exec (.receptionEnd dt x bytes) s = .next t
      ∧ (t0.dst ≠ s.own → s2.passesPlain x t0.dst → fits →
        EndsAs (setQueue x.other (s2.queue x.other ++ [{ inSide := x, telegram := t0 }]) (claimCells cells s2)) t)
      ∧ (t0.dst ≠ s.own → s2.passesPlain x t0.dst → ¬ fits → EndsAs (count (.plainDropped x.other) s2) t)
      ∧ (t0.dst = s.own ∨ ¬ s2.passesPlain x t0.dst → EndsAs s2 t))
  ∧ ∀ s : State, s.passSet .a = s.groupsAB ∧ s.passSet .b = s.groupsBA
      ∧ s.broadcastSetting .a = s.params.broadcastAB ∧ s.broadcastSetting .b = s.params.broadcastBA

/-- RECEPTION_END of a confirmed telegram that the relay leaves without a reply (R55, R58, R60): in ISOLATE mode, to a
station of side X, or to an unknown one under UNKNOWN_POLICY IGNORE. -/
def Obligations.SilentDiscards : Prop :=
  ∀ (dt : Nat) (x : Side) (bytes : List Byte) (s : State) (t0 : Telegram), s.ready = true →
    s.numbered = true → s.receives x → checkReception bytes = .wellFormed t0 → t0.kind.isConfirmed = true →
    t0.dst ≠ s.own → (s.quiet x dt).sourceConflict x t0.src = false →
    let s2 := s.learned x dt t0.src
    (s.params.mode = .isolate ∨ (∃ e, s2.lookup t0.dst = some e ∧ e.side = x)
      ∨ (s2.lookup t0.dst = none ∧ s.params.unknownPolicy = .ignore)) →
    ∃ t, exec (.receptionEnd dt x bytes) s = .next t ∧ EndsAs s2 t

/-- RECEPTION_END of an SRESET (R53, R54): the segment reset of side X, and after it the offer to side Y when MODE is
FORWARD and SRESET_PASS is YES, which is the plain hand-off (R61, R83). Its storage is tested before the claims that
wait, on the cells that the segment reset has released too (log 10). -/
def Obligations.SresetArrival : Prop :=
  (∀ (dt : Nat) (x : Side) (bytes : List Byte) (s : State) (t0 : Telegram), s.ready = true →
    s.numbered = true → s.receives x → checkReception bytes = .wellFormed t0 → t0.kind = .sreset → s.own ≠ 2047 →
    (s.quiet x dt).sourceConflict x t0.src = false →
    let s2 := segmentReset x (s.learned x dt t0.src)
    ∃ t, exec (.receptionEnd dt x bytes) s = .next t
      ∧ (s.params.mode = .forward → s.params.sresetPass = true → EndsAs (plainHandOff x t0 s2) t)
      ∧ (s.params.mode = .isolate ∨ s.params.sresetPass = false → EndsAs s2 t))
  ∧ ∀ (x : Side) (t0 : Telegram) (s : State),
    let cells := cellsFor t0.payload.length
    let fits := (s.port x.other).state ≠ .down ∧ (s.queue x.other).length < 48 ∧ cells + s.params.plainReserve ≤ s.free
    (fits → plainHandOff x t0 s =
      arbitrate x.other (setQueue x.other (s.queue x.other ++ [{ inSide := x, telegram := t0 }]) (claimCells cells s)))
    ∧ (¬ fits → plainHandOff x t0 s = count (.plainDropped x.other) s)

/-- A segment reset of side X (R53, R38, R84, R85, R130, R92, R170, R150, R182): what each block ends, removes, counts,
latches and keeps, after which the arbiters run. When it releases a cell or a descriptor the waiting claims are to be
tried (R78), a restart whose response it ends is due (R167), and a request that becomes the head is to be tested
(log 3). -/
def Obligations.SegmentReset : Prop :=
  ∀ (x : Side) (s : State), s.numbered = true →
    (∀ r ∈ s.records, r.origin = .forward → r.outSide = x → r.inSide = x.other) →
    let out := s.records.filter (fun r => r.outSide == x)
    let ended (o : Origin) : Nat := (out.filter (fun r => r.origin == o)).length
    let lapses := s.session.any (fun c => c.side == x)
    let headGone := s.requests.head?.any (fun q => q.side == x)
    ∃ v, segmentReset x s = arbitrateBoth v
    -- the ports
    ∧ ((s.port x).state = .defer →
      v.port x = { s.port x with state := .idle, choice := none, deferral := none, lossCount := 0 })
    ∧ ((s.port x).state ≠ .defer → v.port x = s.port x) ∧ v.port x.other = s.port x.other
    -- the records
    ∧ (∀ r ∈ v.records, r.outSide ≠ x)
    ∧ (∀ n r, s.record? n = some r → r.outSide ≠ x → v.record? n = some r)
    ∧ (∀ n r, s.record? n = some r → r.outSide = x → r.origin = .forward →
      ∃ q, v.record? n = some q ∧ NoticeOf r .segmentReset s q ∧ ∀ p ∈ s.records, p.outSide ≠ x → p.stamp < q.stamp)
    ∧ (∀ n r role, s.record? n = some r → r.outSide = x → r.origin = .relay role → v.record? n = none)
    ∧ (∀ n, s.record? n = none → v.record? n = none)
    ∧ v.ownSeq = s.ownSeq + BitVec.ofNat 4 (ended .forward)
    -- the plain queues, the duplicate table, the requests and the cells
    ∧ v.queue x = [] ∧ v.queue x.other = s.queue x.other
    ∧ v.dups = s.dups.filter (fun e => e.arrivalSide != x)
    ∧ v.requests = s.requests.filter (fun q => q.side != x)
    ∧ v.free = s.free + sumCells PlainEntry.cells (s.queue x)
      + (out.map (fun r => if r.origin = .forward then r.cells - 1 else r.cells)).sum
      + sumCells Request.cells (s.requests.filter (fun q => q.side == x))
    -- the counters and the events
    ∧ (∀ c, v.counter c = saturatingAdd (s.counter c)
        (if c = .plainDropped x then (s.queue x).length else if c = .noticesCreated then ended .forward
          else if c = .noticesLost then ended (.relay .notice) else if c = .responsesLost then ended (.relay .response)
          else 0))
    ∧ v.latched = s.latched ||| (if x = .a then 0x0040#16 else 0x0080#16)
      ||| (if ended (.relay .response) = 0 then 0#16 else 0x8000#16)
      ||| (if ended (.relay .notice) = 0 then 0#16 else 0x4000#16) ||| (if lapses then 0x0100#16 else 0#16)
    ∧ (∀ e, s.eventStation = some (e, x) → v.reported = 0#16)
    ∧ ((∀ e, s.eventStation ≠ some (e, x)) → v.reported = s.reported)
    ∧ ((∃ r ∈ out, r.origin = .relay .event) → s.eventRecord ≠ none →
      v.eventRecord = none ∧ v.repeatTimer = .running (s.now + s.params.eventRepeat * 1000000))
    ∧ ((∀ r ∈ out, r.origin ≠ .relay .event) ∨ s.eventRecord = none →
      v.eventRecord = s.eventRecord ∧ v.repeatTimer = s.repeatTimer)
    ∧ v.eventClaim = s.eventClaim ∧ v.eventStation = s.eventStation ∧ v.mask = s.mask
    -- the session, the RESPONSE claim, the head and a restart
    ∧ v.session = (if lapses then none else s.session)
    ∧ v.respClaim = (s.respClaim && !headGone)
    ∧ v.headDue = (if headGone then !v.requests.isEmpty else s.headDue)
    ∧ v.claimsDue = (s.claimsDue || !(s.queue x).isEmpty
      || out.any (fun r => r.origin != .forward || decide (1 < r.cells)) || s.requests.any (fun q => q.side == x))
    ∧ v.restart = s.restart
    ∧ ((∃ p, s.restart = some p ∧ ∃ r ∈ out, r.origin = .relay .response ∧ r.number = p.record) → v.restartDue = true)
    ∧ ((∀ p, s.restart = some p → ∀ r ∈ out, r.origin = .relay .response → r.number ≠ p.record) →
      v.restartDue = s.restartDue)
    ∧ v.stations = s.stations ∧ KeepsConfig s v ∧ KeepsRest s v ∧ v.now = s.now

/-! ## Records -/

/-- The outcomes of an attempt (R115 to R119, R122): BUSY advances the busy count, no reply and NO_ACCESS the attempts
used; at its limit or with a mark the record ends, else it is held; REJECT ends it. -/
def Obligations.SlotOutcomes : Prop :=
  (∀ (r : Record) (s : State),
    (r.mark = none → r.busyCount + 1 ≤ r.busyLimit →
      outcomeBusy r s = updateRecord r.number
        (fun _ => { r with busyCount := r.busyCount + 1, state := .waiting (s.now + s.params.busyHold * 1000) }) s)
    ∧ (r.mark = none → r.busyLimit < r.busyCount + 1 →
      outcomeBusy r s = endUndelivered { r with busyCount := r.busyCount + 1 } .busyLimit s)
    ∧ (∀ m, r.mark = some m → outcomeBusy r s = endUndelivered { r with busyCount := r.busyCount + 1 } m.reason s)
    ∧ (∀ reason, r.mark = none → outcomeReject r reason s = endUndelivered { r with rejectReason := some reason } .rejected s)
    ∧ (∀ reason m, r.mark = some m → outcomeReject r reason s = endUndelivered r m.reason s)
    ∧ (∀ why, r.mark = none → r.attempts + 1 < r.retryLimit →
      outcomeFailed r why s = updateRecord r.number
        (fun _ => { r with attempts := r.attempts + 1, state := .waiting (s.now + s.params.retryInterval * 1000) }) s)
    ∧ (∀ why, r.mark = none → r.retryLimit ≤ r.attempts + 1 →
      outcomeFailed r why s = endUndelivered { r with attempts := r.attempts + 1 } why s)
    ∧ (∀ why m, r.mark = some m → outcomeFailed r why s = endUndelivered { r with attempts := r.attempts + 1 } m.reason s))
  ∧ Mark.purged.reason = .purged ∧ Mark.expired.reason = .expired ∧ Mark.unrouted.reason = .unrouted

/-- A FORWARD record that ends undelivered becomes a NOTICE in its descriptor (R124, R125, R80, R16, R108): its fields,
the payload as R185 lays it out, the cells it frees, and nothing else; when cells are freed, the waiting claims are to
be tried (log 3). -/
def Obligations.NoticeConversion : Prop :=
  ∀ (r r0 : Record) (why : EndReason) (s : State), s.numbered = true → s.record? r.number = some r0 →
    r.origin = .forward →
    let u := endUndelivered r why s
    (∃ q, u.record? r.number = some q
      ∧ q.number = r.number ∧ q.origin = .relay .notice ∧ q.kind = .notice ∧ q.source = s.own
      ∧ q.destination = r.source ∧ q.seq = s.ownSeq ∧ q.inSide = r.outSide ∧ q.outSide = r.inSide
      ∧ (∀ p ∈ s.records, p.stamp < q.stamp) ∧ q.state = .queued ∧ q.attempts = 0 ∧ q.busyCount = 0
      ∧ q.retryLimit = s.params.retryLimit ∧ q.busyLimit = s.params.busyLimit
      ∧ q.deadline = s.now + s.params.lifetime * 1000 ∧ q.mark = none ∧ q.rejectReason = none
      ∧ (∀ b, why = .rejected → r.rejectReason = some b →
        q.payload = [BitVec.ofNat 8 (r.destination / 256), BitVec.ofNat 8 r.destination, r.seq.setWidth 8,
          r.kind.code.setWidth 8, 0x04#8, BitVec.ofNat 8 r.attempts, BitVec.ofNat 8 r.busyCount, b])
      ∧ (why ≠ .rejected →
        q.payload = [BitVec.ofNat 8 (r.destination / 256), BitVec.ofNat 8 r.destination, r.seq.setWidth 8,
          r.kind.code.setWidth 8, why.code, BitVec.ofNat 8 r.attempts, BitVec.ofNat 8 r.busyCount]))
    ∧ (∀ n, n ≠ r.number → u.record? n = s.record? n) ∧ u.records.length = s.records.length
    ∧ u.ownSeq = s.ownSeq + 1 ∧ u.free = s.free + (r.cells - 1)
    ∧ (∀ c, u.counter c = if c = .noticesCreated then saturatingAdd (s.counter c) 1 else s.counter c)
    ∧ (1 < r.cells → u.claimsDue = true) ∧ (r.cells ≤ 1 → u.claimsDue = s.claimsDue)
    ∧ u.respClaim = s.respClaim ∧ u.eventClaim = s.eventClaim ∧ u.restartDue = s.restartDue ∧ u.headDue = s.headDue
    ∧ KeepsConfig s u ∧ KeepsTables s u ∧ KeepsPlainQueues s u ∧ KeepsManagement s u ∧ KeepsEvents s u ∧ KeepsRest s u
    ∧ u.portA = s.portA ∧ u.portB = s.portB ∧ u.now = s.now

/-- A record that is delivered, and a RELAY record that ends undelivered, is released with its descriptor and cells,
and its role decides what is counted, latched and told (R114, R126, R79, R176). What another role is told stays as it
was. A restart told of is due, and the claims that wait are to be tried (R78; log 3). -/
def Obligations.RecordReleased : Prop :=
  ∀ (r r0 : Record) (why : EndReason) (s : State), s.numbered = true → s.record? r.number = some r0 →
    let d := deliver r s
    let f := endUndelivered r why s
    (∀ u, u = d ∨ (u = f ∧ r.origin ≠ .forward) →
      u.record? r.number = none ∧ (∀ n, n ≠ r.number → u.record? n = s.record? n)
      ∧ u.records.length + 1 = s.records.length ∧ u.free = s.free + r.cells ∧ u.ownSeq = s.ownSeq
      ∧ KeepsConfig s u ∧ KeepsTables s u ∧ KeepsPlainQueues s u ∧ KeepsManagement s u ∧ KeepsRest s u
      ∧ u.portA = s.portA ∧ u.portB = s.portB ∧ u.now = s.now ∧ u.mask = s.mask ∧ u.eventStation = s.eventStation
      ∧ u.claimsDue = true ∧ u.respClaim = s.respClaim ∧ u.eventClaim = s.eventClaim ∧ u.headDue = s.headDue
      ∧ (r.origin ≠ .relay .event ∨ s.eventRecord = none →
        u.reported = s.reported ∧ u.eventRecord = s.eventRecord ∧ u.repeatTimer = s.repeatTimer)
      ∧ (r.origin ≠ .relay .response ∨ (∀ p, s.restart = some p → p.record ≠ r.number) → u.restartDue = s.restartDue))
    ∧ (∀ c, d.counter c =
      if c = .delivered ∧ r.origin = .forward then saturatingAdd (s.counter c) 1 else s.counter c)
    ∧ d.latched = s.latched
    ∧ (r.origin = .relay .response → f.latched = s.latched ||| 0x8000#16
      ∧ ∀ c, f.counter c = if c = .responsesLost then saturatingAdd (s.counter c) 1 else s.counter c)
    ∧ (r.origin = .relay .notice → f.latched = s.latched ||| 0x4000#16
      ∧ ∀ c, f.counter c = if c = .noticesLost then saturatingAdd (s.counter c) 1 else s.counter c)
    ∧ (r.origin = .relay .event → f.latched = s.latched ∧ f.counters = s.counters)
    ∧ (∀ p, r.origin = .relay .response → s.restart = some p → p.record = r.number →
      d.restartDue = true ∧ f.restartDue = true)
    ∧ (∀ g, r.origin = .relay .event → s.eventRecord = some g →
      d.reported = g.sent ∧ f.reported = s.reported
      ∧ ∀ u, u = d ∨ u = f →
        u.eventRecord = none ∧ u.repeatTimer = .running (s.now + s.params.eventRepeat * 1000000))

/-- HOLD_END (R119): the WAITING record returns to QUEUED, at its hold end (log 1). -/
def Obligations.HoldEnd : Prop :=
  ∀ (n until_ : Nat) (r : Record) (s : State), s.ready = true → s.numbered = true → s.record? n = some r →
    r.state = .waiting until_ →
    ∃ t, exec (.holdEnd n) s = .next t
      ∧ EndsAs (updateRecord n (fun q => { q with state := .queued }) { s with now := max s.now until_ }) t

/-- LIFETIME_EXPIRY (R120, R121, R32): with nothing on the line the record ends EXPIRED at once and a port that had
chosen it drops it; on the line it is marked; a marked record keeps its first mark. The clock moves to the moment (log
1). -/
def Obligations.LifetimeExpiry : Prop :=
  ∀ (n : Nat) (r : Record) (s : State), s.ready = true → s.numbered = true → s.record? n = some r →
    let s1 := { s with now := max s.now r.deadline }
    let p := s.port r.outSide
    let chosen := p.choice = some (.record n)
    let idle : Port := { p with state := .idle, choice := none, lossCount := 0, deferral := none }
    ∃ t, exec (.lifetimeExpiry n) s = .next t
      ∧ (r.mark = none → r.state = .queued ∨ (∃ m, r.state = .waiting m) → ¬ chosen →
        EndsAs (endUndelivered r .expired s1) t)
      ∧ (r.mark = none → r.state = .sending → chosen → p.state = .defer →
        EndsAs (endUndelivered r .expired (setPort r.outSide idle s1)) t)
      ∧ (r.mark = none → r.state = .sending → chosen → p.state = .replying →
        EndsAs (endUndelivered r .expired
          (setPort r.outSide { idle with state := .replying, returnState := some .idle } s1)) t)
      ∧ (r.mark = none → (r.state = .sending ∧ p.state = .sending) ∨ r.state = .awaiting →
        EndsAs (updateRecord n (fun q => { q with mark := some .expired }) s1) t)
      ∧ (∀ m, r.mark = some m → EndsAs s1 t)

/-! ## Timers of the tables, the session and the events -/

/-- AGING_TICK (R69, R70) and DUP_HOLD_EXPIRY (R91). The clock moves to the moment (log 1). -/
def Obligations.TableTimers : Prop :=
  (∀ s : State, s.ready = true →
      exec .agingTick s =
        .next { s with
          now := max s.now s.nextTick
          nextTick := s.nextTick + 1000000
          stations := s.stations.filterMap (fun e =>
            match e.origin with
            | .loaded => some e
            | .learned idle =>
              if s.params.ageLimit ≤ idle + 1 then none else some { e with origin := .learned (idle + 1) }) })
    ∧ ∀ (s : State) (source : Nat) (e : DupEntry), s.ready = true → s.dup? source = some e →
      exec (.dupHoldExpiry source) s =
        .next { s with
          now := max s.now (e.lastUse + s.params.dupHold * 1000)
          dups := s.dups.filter (fun e => e.source != source) }

/-- LEASE_EXPIRY (R149): at the lease end (log 1) the session closes with its staged configuration, and SESSION_LAPSED
is latched. -/
def Obligations.LeaseExpiry : Prop :=
  ∀ (s : State) (c : Session), s.ready = true → s.numbered = true → s.session = some c →
    ∃ t, exec .leaseExpiry s = .next t
      ∧ EndsAs { s with now := max s.now c.leaseEnd, session := none, latched := s.latched ||| 0x0100#16 } t

/-- EVENT_REPEAT_EXPIRY (R176, R175): at its moment (log 1) the timer is EXPIRED, and the latched and unmasked set, if
any, is sent again. -/
def Obligations.EventRepeatExpiry : Prop :=
  ∀ (s : State) (m : Nat), s.ready = true → s.numbered = true → s.repeatTimer = .running m →
    ∃ t, exec .eventRepeatExpiry s = .next t ∧ EndsAs { s with now := max s.now m, repeatTimer := .expired } t

/-- EVENT_CLAIM_GRANTED (R78, R175): the waiting claim, which is due (log 3), is granted and the EVENT record
created, by a claim of one cell whose CELLS_LOW it carries (log 9). The send condition is spelled out; when the claim
is due, statement ExecutionOfTheHead says. -/
def Obligations.EventClaimGranted : Prop :=
  (∀ s : State, s.numbered = true → s.due = some .eventClaim → s.sendCondition = true →
    ∃ u t, exec .eventClaimGranted s = .next t ∧ EndsAs u t ∧ EventMade s u .queued ∧ KeepsAtEnd s u ∧ u.now = s.now
      ∧ u.eventClaim = false ∧ u.restartDue = s.restartDue ∧ u.respClaim = s.respClaim
      ∧ u.claimsDue = s.claimsDue ∧ u.headDue = s.headDue
      ∧ (∀ x, u.port x = s.port x) ∧ ∀ n r, s.record? n = some r → u.record? n = some r)
  ∧ ∀ s : State, s.sendCondition = true ↔ s.eventStation ≠ none ∧ s.eventRecord = none
      ∧ (s.latched &&& s.mask &&& ~~~ s.reported ≠ 0#16 ∨ (s.repeatTimer = .expired ∧ s.latched &&& s.mask ≠ 0#16))

/-! ## Execution of the head request -/

/-- The head executes (R155, R156, R109, R137): whatever its command, the holder's lease is renewed, the command
decided, the RESPONSE record created in the lowest free descriptor with the tag, the SEQ, the command, the outcome
and the results, and the request leaves with its cells; the new head is tested, or its claim waits. The head is due,
or its waiting claim, exactly when no restart is pending, a descriptor is free and the free count holds the
response's cells (R153, R154), the RESPONSE claim before the EVENT claim (R78); that a restart comes before them and
the head after them is the model's order (log 3, log 10, log 19). The state after the record's creation and the request's
leaving is spelled out whole: the record, the descriptors, the cells with the CELLS_LOW that the response's claim latches
when it takes the free count below LOW_MARK (R81), what is to be tested next (log 3), and that all else stands as the
command left it. The command codes, the outcome codes (R185, R186), the lowest free descriptor and the stamp (R106, R108)
are spelled out. -/
def Obligations.ExecutionOfTheHead : Prop :=
  (∀ (c : Instr) (s : State) (q : Request) (rest : List Request), s.numbered = true → s.executing q rest →
    (executes c = some q.command ∨ (c = .responseClaimGranted ∧ s.due = some .responseClaim)) →
    let s' := (decideRequest q s).1
    let a := (decideRequest q s).2
    s'.numbered = true ∧ s'.records.length < 64 ∧ s'.lowestFree = s.lowestFree ∧ s'.now = s.now ∧ s'.own = s.own
    ∧ (∃ t, exec c s = .next t ∧ EndsAs (executed q rest a s') t ∧ t.requests = rest
      ∧ (t.due ≠ none → t.claimsDue = true)
      ∧ (rest ≠ [] → t.restart = none → (t.due = none → t.respClaim = true) ∧ (t.due ≠ none → t.headDue = true))
      ∧ ∃ tag0 tag1 code, (∀ k, [tag0, tag1, code].getD k 0 = if k < 3 then q.payload.getD k 0 else 0)
        ∧ Holds t s.lowestFree
          { number := s.lowestFree, origin := .relay .response, kind := .mrsp, source := s.own
            destination := q.station, seq := s'.ownSeq, inSide := q.side, outSide := q.side
            payload := [tag0, tag1, q.seq.setWidth 8, code, a.outcome.code] ++ a.results
            stamp := s'.newStamp, state := .queued, attempts := 0, busyCount := 0
            retryLimit := s'.params.retryLimit, busyLimit := s'.params.busyLimit
            deadline := s.now + s'.params.lifetime * 1000, mark := none, rejectReason := none })
    ∧ (∀ h, s.session = some h →
      renewLease q s = if h.holder = q.station then { s with session := some (h.renewed q s.now h.staged) } else s)
    ∧ (s.session = none → renewLease q s = s))
  -- what the creation of the record and the leaving of the request do to the state that the command left
  ∧ (∀ (q : Request) (rest : List Request) (a : Answer) (s' : State), s'.numbered = true → s'.records.length < 64 →
    let v := executed q rest a s'
    let cells := cellsFor (5 + a.results.length)
    v.record? s'.lowestFree = some
        { number := s'.lowestFree, origin := .relay .response, kind := .mrsp, source := s'.own
          destination := q.station, seq := s'.ownSeq, inSide := q.side, outSide := q.side
          payload := [q.payload.getD 0 0, q.payload.getD 1 0, q.seq.setWidth 8, q.payload.getD 2 0, a.outcome.code]
            ++ a.results
          stamp := s'.newStamp, state := .queued, attempts := 0, busyCount := 0
          retryLimit := s'.params.retryLimit, busyLimit := s'.params.busyLimit
          deadline := s'.now + s'.params.lifetime * 1000, mark := none, rejectReason := none }
    ∧ (∀ n, n ≠ s'.lowestFree → v.record? n = s'.record? n)
    ∧ v.numbered = true ∧ v.records.length = s'.records.length + 1
    ∧ v.ownSeq = s'.ownSeq + 1 ∧ v.free = s'.free - cells + q.cells
    ∧ v.latched = (if s'.params.lowMark ≤ s'.free ∧ s'.free - cells < s'.params.lowMark then s'.latched ||| 0x2000#16
        else s'.latched)
    ∧ v.requests = rest ∧ v.respClaim = false ∧ v.claimsDue = true ∧ v.headDue = !rest.isEmpty
    ∧ KeepsConfig s' v ∧ KeepsTables s' v ∧ KeepsPlainQueues s' v ∧ KeepsRest s' v
    ∧ (∀ x, v.port x = s'.port x) ∧ v.counters = s'.counters ∧ v.session = s'.session ∧ v.restart = s'.restart
    ∧ v.restartDue = s'.restartDue ∧ v.eventClaim = s'.eventClaim ∧ v.mask = s'.mask ∧ v.reported = s'.reported
    ∧ v.eventStation = s'.eventStation ∧ v.eventRecord = s'.eventRecord ∧ v.repeatTimer = s'.repeatTimer
    ∧ v.now = s'.now)
  -- when the head, or a waiting claim, is due
  ∧ (∀ s : State,
    let runs : Prop := ∃ q rest, s.requests = q :: rest ∧ s.restart = none ∧ s.records.length < 64
      ∧ cellsFor (5 + (decideRequest q s).2.results.length) ≤ s.free
    let response : Prop := s.claimsDue = true ∧ s.respClaim = true ∧ runs
    let event : Prop := s.claimsDue = true ∧ s.eventClaim = true ∧ s.records.length < 64 ∧ 1 ≤ s.free
    (∀ kind, s.due = some (.restart kind) ↔
      s.held = false ∧ s.restartDue = true ∧ ∃ n, s.restart = some { kind := kind, record := n })
    ∧ (s.due = some .responseClaim ↔ s.held = false ∧ response)
    ∧ (s.due = some .eventClaim ↔
      s.held = false ∧ ¬ (s.restartDue = true ∧ s.restart ≠ none) ∧ ¬ response ∧ event)
    ∧ (s.due = some .head ↔ s.held = false ∧ ¬ response ∧ ¬ event ∧ s.headDue = true ∧ runs))
  -- the command and the arguments of a request
  ∧ (∀ q : Request, (q.payload.length < 3 → q.command = none ∧ q.args = [])
    ∧ ∀ b0 b1 code args, q.payload = b0 :: b1 :: code :: args → q.args = args
      ∧ ∀ cmd, q.command = some cmd ↔ (code.toNat, cmd) ∈
        [(0x01, Command.identify), (0x02, .readStations), (0x03, .readConfig), (0x04, .readCounters), (0x05, .readCustody),
          (0x06, .readEvents), (0x10, .openSession), (0x11, .closeSession), (0x12, .stageStation), (0x13, .unstageStation),
          (0x14, .stageGroups), (0x15, .stageParams), (0x16, .commit), (0x20, .purge), (0x21, .restart),
          (0x30, .setEventStation), (0x31, .setEventMask), (0x32, .clearEvents)])
  -- the outcome codes, the descriptors and the stamps
  ∧ [OutcomeCode.done, .resumed, .sessionHeld, .notHolder, .noSession, .stale, .notManager, .badArgument, .tableFull,
      .notFound, .unknownCommand].map OutcomeCode.code = [0x00, 0x01, 0x02, 0x03, 0x04, 0x05, 0x06, 0x07, 0x08, 0x09, 0x0A]
  ∧ ∀ s : State, s.freeDescriptors = 64 - s.records.length ∧ (∀ r ∈ s.records, r.stamp < s.newStamp)
    ∧ (s.records.length < 64 → s.lowestFree < 64 ∧ s.record? s.lowestFree = none
      ∧ ∀ n, n < s.lowestFree → s.record? n ≠ none)

/-- MALFORMED_REQUEST (R157): a payload too short for tag and command code is BAD_ARGUMENT, an unknown command code
UNKNOWN_COMMAND, each without results, in a one-cell response that carries the bytes that were there and zero for the
missing ones; the holder's lease is renewed all the same. -/
def Obligations.MalformedRequest : Prop :=
  ∀ (s : State) (q : Request) (rest : List Request), s.numbered = true → s.executing q rest →
    let gives (o : OutcomeCode) (payload : List Byte) : Prop :=
      ∃ t, exec .malformedRequest s = .next t
        ∧ EndsAs (executed q rest { outcome := o, results := [] } (renewLease q s)) t
        ∧ (∃ r, t.record? s.lowestFree = some r ∧ r.payload = payload)
        ∧ (executed q rest { outcome := o, results := [] } (renewLease q s)).free = s.free - 1 + q.cells
    (q.payload = [] → gives .badArgument [0, 0, q.seq.setWidth 8, 0, 0x07])
    ∧ (∀ b0, q.payload = [b0] → gives .badArgument [b0, 0, q.seq.setWidth 8, 0, 0x07])
    ∧ (∀ b0 b1, q.payload = [b0, b1] → gives .badArgument [b0, b1, q.seq.setWidth 8, 0, 0x07])
    ∧ ∀ b0 b1 code extra, q.payload = b0 :: b1 :: code :: extra →
      code.toNat ∉ [0x01, 0x02, 0x03, 0x04, 0x05, 0x06, 0x10, 0x11, 0x12, 0x13, 0x14, 0x15, 0x16, 0x20, 0x21, 0x30,
        0x31, 0x32] →
      gives .unknownCommand [b0, b1, q.seq.setWidth 8, code, 0x0A]

/-- IDENTIFY and READ_EVENTS (R160, R181, R186): the values as they stand, to every requester, with nothing changed
but the holder's lease and what the execution itself brings. The bit of each of the sixteen events in a set is
spelled out (R187), and what latching adds (R174). -/
def Obligations.FixedReads : Prop :=
  (∀ (s : State) (q : Request) (rest : List Request), s.numbered = true → s.executing q rest →
    (q.command = some .identify →
      ∃ t, exec .identify s = .next t
        ∧ EndsAs (executed q rest
            { outcome := .done
              results := [0x07#8, 0x31#8, 0x02#8, 0x30#8, 0x01#8] ++ beBytes 2 s.own
                ++ [s.rate.setWidth 8, if s.params.mode = .forward then 0x00#8 else 0x01#8] ++ beBytes 2 s.epoch.toNat
                ++ beBytes 2 (match s.session with | some h => h.holder | none => 0)
                ++ beBytes 2 s.free ++ [BitVec.ofNat 8 s.records.length] }
            (renewLease q s)) t)
    ∧ (q.command = some .readEvents →
      ∃ t, exec .readEvents s = .next t
        ∧ EndsAs (executed q rest
            { outcome := .done
              results := beBytes 2 s.latched.toNat ++ beBytes 2 s.mask.toNat ++ beBytes 2 s.reported.toNat
                ++ (match s.eventStation with
                    | some (n, .a) => beBytes 2 n ++ [0x00#8]
                    | some (n, .b) => beBytes 2 n ++ [0x01#8]
                    | none => [0x00#8, 0x00#8, 0xFF#8])
                ++ [if s.eventRecord.isSome then 0x01#8 else 0x00#8] }
            (renewLease q s)) t))
  ∧ [Event.restarted, .strapInvalid, .lineDown .a, .lineDown .b, .lineUp .a, .lineUp .b, .segmentReset .a, .segmentReset .b,
      .sessionLapsed, .committed, .stationMoved, .sourceConflict, .learnFull, .cellsLow, .noticeLost, .responseLost].map Event.bit
    = [0x0001#16, 0x0002#16, 0x0004#16, 0x0008#16, 0x0010#16, 0x0020#16, 0x0040#16, 0x0080#16, 0x0100#16, 0x0200#16, 0x0400#16,
      0x0800#16, 0x1000#16, 0x2000#16, 0x4000#16, 0x8000#16]
  ∧ (∀ (e : Event) (s : State), latch e s = { s with latched := s.latched ||| e.bit })
  ∧ ∀ (k n : Nat), beBytes 0 n = [] ∧ beBytes (k + 1) n = BitVec.ofNat 8 (n / 256 ^ k) :: beBytes k n

/-- READ_STATIONS and READ_CUSTODY (R161, R164, R183): the entries from the first number on, in ascending order, up to
the count, with the more flag; an argument out of its range or missing is refused by its number. A listed entry takes 9
bytes, a record summary 15 (R185). -/
def Obligations.Listings : Prop :=
  ∀ (s : State) (q : Request) (rest : List Request), s.numbered = true → s.executing q rest →
    let gives (c : Instr) (o : OutcomeCode) (results : List Byte) : Prop :=
      ∃ t, exec c s = .next t ∧ EndsAs (executed q rest { outcome := o, results := results } (renewLease q s)) t
    (q.command = some .readStations →
      (∀ f1 f0 maximum extra, q.args = f1 :: f0 :: maximum :: extra →
        let first := f1.toNat * 256 + f0.toNat
        let found := s.stations.filter (fun e => decide (first ≤ e.station))
        (2047 < first → gives .readStations .badArgument [0])
        ∧ (first ≤ 2047 → 16 < maximum.toNat → gives .readStations .badArgument [1])
        ∧ (first ≤ 2047 → maximum.toNat ≤ 16 → gives .readStations .done
          ([f1, f0, BitVec.ofNat 8 (min maximum.toNat found.length), if maximum.toNat < found.length then 1#8 else 0#8]
            ++ (found.take maximum.toNat).flatMap stationEntryBytes)))
      ∧ (q.args.length < 2 → gives .readStations .badArgument [0])
      ∧ (∀ f1 f0, q.args = [f1, f0] →
        (f1.toNat * 256 + f0.toNat ≤ 2047 → gives .readStations .badArgument [1])
        ∧ (2047 < f1.toNat * 256 + f0.toNat → gives .readStations .badArgument [0])))
    ∧ (q.command = some .readCustody →
      (∀ first maximum extra, q.args = first :: maximum :: extra →
        let found := s.records.filter (fun r => decide (first.toNat ≤ r.number))
        (63 < first.toNat → gives .readCustody .badArgument [0])
        ∧ (first.toNat ≤ 63 → 8 < maximum.toNat → gives .readCustody .badArgument [1])
        ∧ (first.toNat ≤ 63 → maximum.toNat ≤ 8 → gives .readCustody .done
          ([first, BitVec.ofNat 8 (min maximum.toNat found.length), if maximum.toNat < found.length then 1#8 else 0#8]
            ++ (found.take maximum.toNat).flatMap recordSummary)))
      ∧ (q.args = [] → gives .readCustody .badArgument [0])
      ∧ (∀ first, q.args = [first] →
        (first.toNat ≤ 63 → gives .readCustody .badArgument [1])
        ∧ (63 < first.toNat → gives .readCustody .badArgument [0])))
    ∧ (∀ e : StationEntry, stationEntryBytes e =
        [BitVec.ofNat 8 (e.station / 256), BitVec.ofNat 8 e.station, if e.side = .a then 0#8 else 1#8,
          if e.origin = .loaded then 0#8 else 1#8, if e.admitPlain then 1#8 else 0#8,
          if e.admitConfirmed then 1#8 else 0#8, if e.manage then 1#8 else 0#8]
        ++ (match e.origin with
            | .loaded => [0xFF#8, 0xFF#8]
            | .learned idle => [BitVec.ofNat 8 (idle / 256), BitVec.ofNat 8 idle]))
    ∧ (∀ r : Record, recordSummary r =
        [BitVec.ofNat 8 r.number, if r.origin = .forward then 0#8 else 1#8,
          match r.origin with
            | .forward => 0xFF#8
            | .relay .response => 0#8
            | .relay .event => 1#8
            | .relay .notice => 2#8,
          r.kind.code.setWidth 8, BitVec.ofNat 8 (r.source / 256), BitVec.ofNat 8 r.source,
          BitVec.ofNat 8 (r.destination / 256), BitVec.ofNat 8 r.destination, r.seq.setWidth 8,
          if r.inSide = .a then 0#8 else 1#8, if r.outSide = .a then 0#8 else 1#8,
          match r.state with
            | .queued => 0#8
            | .waiting _ => 1#8
            | .sending => 2#8
            | .awaiting => 3#8,
          BitVec.ofNat 8 r.attempts, BitVec.ofNat 8 r.busyCount,
          match r.mark with
            | none => 0xFF#8
            | some .purged => 1#8
            | some .expired => 2#8
            | some .unrouted => 3#8])

/-- READ_CONFIG (R162, R186): epoch, group sets, the eighteen values and the LOADED entries of the active or of the
staged configuration; the argument tests come before the test for a session, and an argument cut short by LEN is refused
by its number (R183). The order of the values and the 6 bytes of an entry are spelled out (R185, R187). -/
def Obligations.ReadConfig : Prop :=
  (∀ (s : State) (q : Request) (rest : List Request) (source f1 f0 maximum : Byte) (extra : List Byte),
    s.numbered = true → s.executing q rest → q.command = some .readConfig →
    q.args = source :: f1 :: f0 :: maximum :: extra →
    let first := f1.toNat * 256 + f0.toNat
    let gives (o : OutcomeCode) (results : List Byte) : Prop :=
      ∃ t, exec .readConfig s = .next t ∧ EndsAs (executed q rest { outcome := o, results := results } (renewLease q s)) t
    let listed (ab ba : GroupSet) (p : Params) (entries : List StagedEntry) : List Byte :=
      let found := entries.filter (fun e => decide (first ≤ e.station))
      beBytes 2 s.epoch.toNat ++ beBytes 8 ab.toNat ++ beBytes 8 ba.toNat ++ p.values.flatMap (beBytes 2)
        ++ [f1, f0, BitVec.ofNat 8 (min maximum.toNat found.length), if maximum.toNat < found.length then 1#8 else 0#8]
        ++ (found.take maximum.toNat).flatMap stagedEntryBytes
    (1 < source.toNat → gives .badArgument [0])
    ∧ (source.toNat ≤ 1 → 2047 < first → gives .badArgument [1])
    ∧ (source.toNat ≤ 1 → first ≤ 2047 → 16 < maximum.toNat → gives .badArgument [2])
    ∧ (first ≤ 2047 → maximum.toNat ≤ 16 →
      (source = 0#8 → gives .done (listed s.groupsAB s.groupsBA s.params
        ((s.stations.filter (fun e => e.origin == .loaded)).map StationEntry.staged)))
      ∧ (source = 1#8 → s.session = none → gives .noSession [])
      ∧ (∀ h, source = 1#8 → s.session = some h →
        gives .done (listed h.staged.groupsAB h.staged.groupsBA h.staged.params h.staged.entries))))
  ∧ (∀ (s : State) (q : Request) (rest : List Request), s.numbered = true → s.executing q rest →
      q.command = some .readConfig →
    let refused (i : Byte) : Prop := ∃ t, exec .readConfig s = .next t
      ∧ EndsAs (executed q rest { outcome := .badArgument, results := [i] } (renewLease q s)) t
    (q.args = [] → refused 0)
    ∧ (∀ source more, q.args = source :: more → more.length < 3 → 1 < source.toNat → refused 0)
    ∧ (∀ source more, q.args = source :: more → more.length < 2 → source.toNat ≤ 1 → refused 1)
    ∧ (∀ source f1 f0, q.args = [source, f1, f0] → source.toNat ≤ 1 →
      (2047 < f1.toNat * 256 + f0.toNat → refused 1) ∧ (f1.toNat * 256 + f0.toNat ≤ 2047 → refused 2)))
  ∧ (∀ p : Params, p.values =
      [if p.mode = .forward then 0 else 1,
        match p.unknownPolicy with
          | .pass => 0
          | .ignore => 1
          | .reject => 2,
        if p.broadcastAB = .pass then 0 else 1, if p.broadcastBA = .pass then 0 else 1, if p.sresetPass then 1 else 0,
        if p.learn then 1 else 0,
        match p.learnAdmit with
          | .none => 0
          | .plain => 1
          | .confirmed => 2
          | .both => 3,
        p.ageLimit, p.retryLimit, p.retryInterval, p.busyLimit, p.busyHold, p.lifetime, p.dupHold, p.plainReserve, p.lowMark,
        p.lease, p.eventRepeat])
  ∧ ∀ e : StagedEntry, stagedEntryBytes e =
      [BitVec.ofNat 8 (e.station / 256), BitVec.ofNat 8 e.station, if e.side = .a then 0#8 else 1#8,
        if e.admitPlain then 1#8 else 0#8, if e.admitConfirmed then 1#8 else 0#8, if e.manage then 1#8 else 0#8]

/-- READ_COUNTERS (R163, R158): the counters named, and their clearing after they are read, for a permitted
requester; an argument cut short by LEN is refused by its number (R183). The twenty-six indices (R187) and what
counting does to a counter (R171) are spelled out. -/
def Obligations.ReadCounters : Prop :=
  (∀ (s : State) (q : Request) (rest : List Request) (first n clear : Byte) (extra : List Byte),
    s.numbered = true → s.executing q rest → q.command = some .readCounters → q.args = first :: n :: clear :: extra →
    let results := [first, n] ++ ((List.range n.toNat).flatMap
      (fun i => beBytes 4 (s.counters.toList.getD (first.toNat + i) 0).toNat))
    let gives (o : OutcomeCode) (results : List Byte) (s' : State) : Prop :=
      ∃ t, exec .readCounters s = .next t ∧ EndsAs (executed q rest { outcome := o, results := results } s') t
    let open_ := clear ≠ 1#8 ∨ s.permits q.station = true
    (clear = 1#8 → s.permits q.station = false → gives .notManager [] (renewLease q s))
    ∧ (open_ → 25 < first.toNat → gives .badArgument [0] (renewLease q s))
    ∧ (open_ → first.toNat ≤ 25 → n.toNat = 0 ∨ 26 < first.toNat + n.toNat → gives .badArgument [1] (renewLease q s))
    ∧ (1 ≤ n.toNat → first.toNat + n.toNat ≤ 26 →
      (1 < clear.toNat → gives .badArgument [2] (renewLease q s))
      ∧ (clear = 0#8 → gives .done results (renewLease q s))
      ∧ (clear = 1#8 → s.permits q.station = true →
        gives .done results (clearCounters first.toNat n.toNat (renewLease q s))
        ∧ ∀ c : Counter, (clearCounters first.toNat n.toNat (renewLease q s)).counter c =
          if first.toNat ≤ c.index.val ∧ c.index.val < first.toNat + n.toNat then 0#32 else s.counter c)))
  ∧ (∀ (s : State) (q : Request) (rest : List Request), s.numbered = true → s.executing q rest →
      q.command = some .readCounters →
    let refused (i : Byte) : Prop := ∃ t, exec .readCounters s = .next t
      ∧ EndsAs (executed q rest { outcome := .badArgument, results := [i] } (renewLease q s)) t
    (q.args = [] → refused 0)
    ∧ (∀ first more, q.args = first :: more → more.length < 2 → 25 < first.toNat → refused 0)
    ∧ (∀ first, q.args = [first] → first.toNat ≤ 25 → refused 1)
    ∧ (∀ first n, q.args = [first, n] → first.toNat ≤ 25 →
      (n.toNat = 0 ∨ 26 < first.toNat + n.toNat → refused 1)
      ∧ (1 ≤ n.toNat → first.toNat + n.toNat ≤ 26 → refused 2)))
  -- the indices and the counting
  ∧ [Counter.rxGood .a, .rxCheckErr .a, .rxFormatErr .a, .txTelegrams .a, .contentionLosses .a, .plainDropped .a, .busyGiven .a,
      .rejectGiven .a, .rxGood .b, .rxCheckErr .b, .rxFormatErr .b, .txTelegrams .b, .contentionLosses .b, .plainDropped .b,
      .busyGiven .b, .rejectGiven .b, .custodyAccepted, .delivered, .noticesCreated, .noticesLost, .responsesLost,
      .duplicatesAnswered, .dupEvicted, .sourceConflicts, .learnFull, .custodyDiscarded].map (fun c => c.index.val)
    = List.range 26
  ∧ (∀ (s : State) (c : Counter), s.counter c = s.counters.toList.getD c.index.val 0#32)
  ∧ (∀ (c : Counter) (n : Nat) (s : State), countBy c n s = { s with counters := (countBy c n s).counters }
      ∧ ∀ d, (countBy c n s).counter d = if d = c then saturatingAdd (s.counter c) n else s.counter d)
  ∧ (∀ (c : Counter) (s : State), count c s = countBy c 1 s)
  ∧ ∀ (v : BitVec 32) (n : Nat), (saturatingAdd v n).toNat = min (v.toNat + n) 4294967295

/-- OPEN_SESSION (R139): opens a session on a copy of the active configuration, resumes the holder's own, or is held
off; lease 0 is refused. -/
def Obligations.OpenSession : Prop :=
  (∀ (s : State) (q : Request) (rest : List Request) (lease : Nat), s.numbered = true → s.executing q rest →
    q.command = some .openSession → s.permits q.station = true →
    let gives (o : OutcomeCode) (results : List Byte) (s' : State) : Prop :=
      ∃ t, exec .openSession s = .next t ∧ EndsAs (executed q rest { outcome := o, results := results } s') t
    let asked := (q.args = [] ∧ lease = s.params.lease)
      ∨ ∃ l extra, q.args = l :: extra ∧ l ≠ 0#8 ∧ lease = l.toNat
    let leaseEnd := s.now + lease * 1000000
    (asked → s.session = none →
      gives .done (beBytes 2 s.epoch.toNat ++ [BitVec.ofNat 8 lease])
        { s with
          session := some {
            holder := q.station, side := q.side, lease := lease, leaseEnd := leaseEnd
            staged := {
              entries := (s.stations.filter (fun e => e.origin == .loaded)).map StationEntry.staged
              groupsAB := s.groupsAB, groupsBA := s.groupsBA, params := s.params } } })
    ∧ (∀ h, asked → s.session = some h → h.holder = q.station →
      gives .resumed (beBytes 2 s.epoch.toNat ++ [BitVec.ofNat 8 lease])
        { s with session := some { h with side := q.side, lease := lease, leaseEnd := leaseEnd } })
    ∧ (∀ h, asked → s.session = some h → h.holder ≠ q.station → gives .sessionHeld (beBytes 2 h.holder) s)
    ∧ (∀ extra, q.args = 0#8 :: extra → gives .badArgument [0] (renewLease q s)))
  ∧ ∀ e : StationEntry, e.staged =
      { station := e.station, side := e.side, admitPlain := e.admitPlain, admitConfirmed := e.admitConfirmed
        manage := e.manage }

/-- CLOSE_SESSION (R140): from the permitted holder it closes the session and discards the staged configuration, and
latches nothing; from another permitted requester it is refused. -/
def Obligations.CloseSession : Prop :=
  ∀ (s : State) (q : Request) (rest : List Request), s.numbered = true → s.executing q rest →
    q.command = some .closeSession → s.permits q.station = true →
    let gives (o : OutcomeCode) (s' : State) : Prop :=
      ∃ t, exec .closeSession s = .next t ∧ EndsAs (executed q rest { outcome := o, results := [] } s') t
    (∀ h, s.session = some h → h.holder = q.station → gives .done { s with session := none })
    ∧ (∀ h, s.session = some h → h.holder ≠ q.station → gives .notHolder s)
    ∧ (s.session = none → gives .noSession s)

/-- The refusals before the arguments (R136, R138, R158, R177): a changing command of a requester without authority,
and a session or staging command without a session or from another station than its holder, has no effect. A station
is permitted exactly when no LOADED entry with manage yes is held, or one is held for it (R136). -/
def Obligations.RefusedCommands : Prop :=
  (∀ (c : Instr) (cmd : Command) (s : State) (q : Request) (rest : List Request), s.numbered = true →
    s.executing q rest → executes c = some (some cmd) → q.command = some cmd →
    let refused (o : OutcomeCode) : Prop :=
      ∃ t, exec c s = .next t ∧ EndsAs (executed q rest { outcome := o, results := [] } (renewLease q s)) t
    let ofSession := cmd ∈ [Command.closeSession, .stageStation, .unstageStation, .stageGroups, .stageParams, .commit]
    (ofSession ∨ cmd ∈ [Command.openSession, .purge, .restart, .setEventStation, .setEventMask, .clearEvents] →
      (∃ e ∈ s.stations, e.origin = .loaded ∧ e.manage = true) →
      (∀ e ∈ s.stations, e.origin = .loaded → e.manage = true → e.station ≠ q.station) → refused .notManager)
    ∧ (ofSession → s.permits q.station = true → s.session = none → refused .noSession)
    ∧ (∀ h, ofSession → s.permits q.station = true → s.session = some h → h.holder ≠ q.station → refused .notHolder))
  ∧ ∀ (s : State) (n : Nat), s.permits n = true ↔
      (¬ ∃ e ∈ s.stations, e.origin = .loaded ∧ e.manage = true)
        ∨ ∃ e ∈ s.stations, e.origin = .loaded ∧ e.manage = true ∧ e.station = n

/-- STAGE_STATION and UNSTAGE_STATION (R142, R143): an entry replaces the staged one of its station or takes its place
in ascending order, a full list gives TABLE_FULL, a number not in the list NOT_FOUND (above 2047 too, log 20), and a bad
entry BAD_ARGUMENT. -/
def Obligations.StagedStations : Prop :=
  (∀ (s : State) (q : Request) (rest : List Request) (h : Session), s.numbered = true → s.executing q rest → s.holds q h →
    let gives (c : Instr) (o : OutcomeCode) (results : List Byte) (entries : List StagedEntry) : Prop :=
      ∃ t, exec c s = .next t
        ∧ EndsAs (executed q rest { outcome := o, results := results }
            { s with session := some (h.renewed q s.now { h.staged with entries := entries }) }) t
    let list := h.staged.entries
    (q.command = some .stageStation →
      (∀ e extra, q.args = beBytes 2 e.station ++ [sideCode e.side, flagCode e.admitPlain, flagCode e.admitConfirmed,
          flagCode e.manage] ++ extra → 1 ≤ e.station → e.station ≤ 1983 → e.station ≠ s.own →
        ((∃ g ∈ list, g.station = e.station) ∨ list.length < 256 →
          gives .stageStation .done [] (insertBy StagedEntry.station e list))
        ∧ ((∀ g ∈ list, g.station ≠ e.station) → 256 ≤ list.length → gives .stageStation .tableFull [] list))
      ∧ (q.args.length < 6 → gives .stageStation .badArgument [0] list)
      ∧ (∀ s1 s0 a b c d extra, q.args = s1 :: s0 :: a :: b :: c :: d :: extra →
        (s1.toNat * 256 + s0.toNat = 0 ∨ 1983 < s1.toNat * 256 + s0.toNat ∨ s1.toNat * 256 + s0.toNat = s.own
          ∨ 1 < a.toNat ∨ 1 < b.toNat ∨ 1 < c.toNat ∨ 1 < d.toNat) → gives .stageStation .badArgument [0] list))
    ∧ (q.command = some .unstageStation →
      (∀ n1 n0 extra, q.args = n1 :: n0 :: extra →
        let n := n1.toNat * 256 + n0.toNat
        ((∃ g ∈ list, g.station = n) → gives .unstageStation .done [] (list.filter (fun g => g.station != n)))
        ∧ ((∀ g ∈ list, g.station ≠ n) → gives .unstageStation .notFound [] list))
      ∧ (q.args.length < 2 → gives .unstageStation .badArgument [0] list)))
  ∧ (∀ (e : StagedEntry) (list : List StagedEntry), ascending StagedEntry.station list = true →
      ascending StagedEntry.station (insertBy StagedEntry.station e list) = true
      ∧ ∀ g, g ∈ insertBy StagedEntry.station e list ↔ g = e ∨ (g ∈ list ∧ g.station ≠ e.station))
  ∧ sideCode .a = 0#8 ∧ sideCode .b = 1#8 ∧ flagCode false = 0#8 ∧ flagCode true = 1#8

/-- STAGE_GROUPS and STAGE_PARAMS (R144, R145): a set replaces the staged one of its direction; a list of pairs is
staged in order when every pair is good, and the first bad pair, one cut short among them, refuses the whole list; a
direction or a set cut short is refused by its number (R183). The eighteen identifiers with their codes and ranges
are spelled out (R134, R187). -/
def Obligations.StagedGroupsAndParams : Prop :=
  (∀ (s : State) (q : Request) (rest : List Request) (h : Session), s.numbered = true → s.executing q rest → s.holds q h →
    let gives (c : Instr) (o : OutcomeCode) (results : List Byte) (staged : Staged) : Prop :=
      ∃ t, exec c s = .next t
        ∧ EndsAs (executed q rest { outcome := o, results := results }
            { s with session := some (h.renewed q s.now staged) }) t
    let bytesOf (pairs : List (Byte × Nat)) : List Byte := pairs.flatMap (fun p => p.1 :: beBytes 2 p.2)
    let set (pairs : List (Byte × Nat)) : Option Params :=
      pairs.foldlM (fun (p : Params) (a : Byte × Nat) => p.set a.1.toNat a.2) h.staged.params
    (q.command = some .stageGroups →
      (∀ d g extra, q.args = d :: beBytes 8 g ++ extra → g < 2 ^ 64 →
        (1 < d.toNat → gives .stageGroups .badArgument [0] h.staged)
        ∧ (d.toNat ≤ 1 → 2 ^ 63 ≤ g → gives .stageGroups .badArgument [1] h.staged)
        ∧ (g < 2 ^ 63 → d = 0#8 → gives .stageGroups .done [] { h.staged with groupsAB := BitVec.ofNat 63 g })
        ∧ (g < 2 ^ 63 → d = 1#8 → gives .stageGroups .done [] { h.staged with groupsBA := BitVec.ofNat 63 g }))
      ∧ (q.args = [] → gives .stageGroups .badArgument [0] h.staged)
      ∧ (∀ d short, q.args = d :: short → short.length < 8 →
        (1 < d.toNat → gives .stageGroups .badArgument [0] h.staged)
        ∧ (d.toNat ≤ 1 → gives .stageGroups .badArgument [1] h.staged)))
    ∧ (q.command = some .stageParams →
      (∀ pairs p, q.args = bytesOf pairs → (∀ a ∈ pairs, a.2 < 65536) → set pairs = some p →
        gives .stageParams .done [] { h.staged with params := p })
      ∧ (∀ pairs a p rest_, q.args = bytesOf (pairs ++ a :: rest_) → (∀ b ∈ pairs ++ a :: rest_, b.2 < 65536) →
        set pairs = some p → p.set a.1.toNat a.2 = none →
        gives .stageParams .badArgument [BitVec.ofNat 8 pairs.length] h.staged)
      ∧ (∀ pairs cut p, q.args = bytesOf pairs ++ cut → (∀ a ∈ pairs, a.2 < 65536) → set pairs = some p →
        1 ≤ cut.length → cut.length ≤ 2 → gives .stageParams .badArgument [BitVec.ofNat 8 pairs.length] h.staged)))
  -- the eighteen parameters
  ∧ ∀ (p : Params) (v : Nat), p.set 0x00 v = none ∧ (∀ i, 0x13 ≤ i → p.set i v = none)
      ∧ p.set 0x01 v = (if v = 0 then some { p with mode := .forward } else if v = 1 then some { p with mode := .isolate } else none)
      ∧ p.set 0x02 v = (if v = 0 then some { p with unknownPolicy := .pass } else if v = 1 then some { p with unknownPolicy := .ignore }
        else if v = 2 then some { p with unknownPolicy := .reject } else none)
      ∧ p.set 0x03 v = (if v = 0 then some { p with broadcastAB := .pass }
        else if v = 1 then some { p with broadcastAB := .block } else none)
      ∧ p.set 0x04 v = (if v = 0 then some { p with broadcastBA := .pass }
        else if v = 1 then some { p with broadcastBA := .block } else none)
      ∧ p.set 0x05 v = (if v = 0 then some { p with sresetPass := false } else if v = 1 then some { p with sresetPass := true } else none)
      ∧ p.set 0x06 v = (if v = 0 then some { p with learn := false } else if v = 1 then some { p with learn := true } else none)
      ∧ p.set 0x07 v = (if v = 0 then some { p with learnAdmit := .none } else if v = 1 then some { p with learnAdmit := .plain }
        else if v = 2 then some { p with learnAdmit := .confirmed } else if v = 3 then some { p with learnAdmit := .both } else none)
      ∧ p.set 0x08 v = (if 10 ≤ v ∧ v ≤ 3600 then some { p with ageLimit := v } else none)
      ∧ p.set 0x09 v = (if 1 ≤ v ∧ v ≤ 15 then some { p with retryLimit := v } else none)
      ∧ p.set 0x0A v = (if 10 ≤ v ∧ v ≤ 2000 then some { p with retryInterval := v } else none)
      ∧ p.set 0x0B v = (if v ≤ 15 then some { p with busyLimit := v } else none)
      ∧ p.set 0x0C v = (if 10 ≤ v ∧ v ≤ 5000 then some { p with busyHold := v } else none)
      ∧ p.set 0x0D v = (if 100 ≤ v ∧ v ≤ 60000 then some { p with lifetime := v } else none)
      ∧ p.set 0x0E v = (if 100 ≤ v ∧ v ≤ 10000 then some { p with dupHold := v } else none)
      ∧ p.set 0x0F v = (if 8 ≤ v ∧ v ≤ 192 then some { p with plainReserve := v } else none)
      ∧ p.set 0x10 v = (if v ≤ 383 then some { p with lowMark := v } else none)
      ∧ p.set 0x11 v = (if 1 ≤ v ∧ v ≤ 255 then some { p with lease := v } else none)
      ∧ p.set 0x12 v = (if 1 ≤ v ∧ v ≤ 60 then some { p with eventRepeat := v } else none)

/-- COMMIT (R146, R147, R148, R135, R71, R127): with the expected epoch the staged configuration becomes active, the
epoch advances, COMMITTED is latched, the duplicate entries whose time since last use is at or above the new DUP_HOLD
go (R91), the LEARNED entries keep what places are left, the FORWARD records that are UNROUTED are withdrawn as
NOTICE(UNROUTED) or marked, the arbiters run (log 8), and the session is settled; nothing else changes. With another
epoch it is STALE. An argument cut short by LEN is refused by its number (R183). -/
def Obligations.Commit : Prop :=
  (∀ (s : State) (q : Request) (rest : List Request) (h : Session) (e1 e0 keep : Byte) (extra : List Byte),
    s.numbered = true → s.executing q rest → q.command = some .commit → s.holds q h →
    q.args = e1 :: e0 :: keep :: extra →
    let expected := e1.toNat * 256 + e0.toNat
    let s1 := renewLease q s
    (1 < keep.toNat → ∃ t, exec .commit s = .next t
      ∧ EndsAs (executed q rest { outcome := .badArgument, results := [1] } s1) t)
    ∧ (keep.toNat ≤ 1 → expected ≠ s.epoch.toNat → ∃ t, exec .commit s = .next t
      ∧ EndsAs (executed q rest { outcome := .stale, results := beBytes 2 s.epoch.toNat } s1) t)
    ∧ (keep.toNat ≤ 1 → expected = s.epoch.toNat →
      let s2 : State := { s1 with
        stations := mergeStations h.staged.entries s.stations
        groupsAB := h.staged.groupsAB, groupsBA := h.staged.groupsBA, params := h.staged.params
        epoch := if s.epoch = 0xFFFF#16 then 1#16 else s.epoch + 1
        latched := s.latched ||| 0x0200#16
        dups := s.dups.filter (fun e => decide (s.now < e.lastUse + h.staged.params.dupHold * 1000)) }
      let s' := carryOutCommit (keep == 1#8) (h.renewed q s.now h.staged) s1
      ∃ t, exec .commit s = .next t
        ∧ EndsAs (executed q rest
            { outcome := .done
              results := beBytes 2 s2.epoch.toNat ++ [if keep = 1#8 ∧ s2.permits q.station = true then 1#8 else 0#8] } s') t
        ∧ ∃ v, Withdrawn .unrouted (fun r => r.origin == .forward && s2.unrouted r) s2 v
          ∧ s' = { arbitrateBoth v with
              session := if keep = 1#8 ∧ s2.permits q.station = true then
                  some (h.renewed q s.now
                    { entries := (s2.stations.filter (fun e => e.origin == .loaded)).map StationEntry.staged
                      groupsAB := s2.groupsAB, groupsBA := s2.groupsBA, params := s2.params })
                else none }))
  -- the merge of R71
  ∧ (∀ (staged : List StagedEntry) (table : List StationEntry), ascending StagedEntry.station staged = true →
      ascending StationEntry.station table = true →
    let merged := mergeStations staged table
    let learned := table.filter (fun e => e.origin != .loaded && staged.all (fun g => g.station != e.station))
    ascending StationEntry.station merged = true
    ∧ (∀ g ∈ staged, { station := g.station, side := g.side, origin := .loaded, admitPlain := g.admitPlain
                       admitConfirmed := g.admitConfirmed, manage := g.manage } ∈ merged)
    ∧ (∀ e ∈ merged, e ∈ learned ∨ (e.origin = .loaded ∧ ∃ g ∈ staged, g.station = e.station))
    ∧ (staged.length + learned.length ≤ 256 → ∀ e ∈ learned, e ∈ merged)
    ∧ (staged.length ≤ 256 → 256 < staged.length + learned.length → merged.length = 256)
    ∧ ∀ e ∈ learned, ∀ f ∈ learned, ∀ i j, e.origin = .learned i → f.origin = .learned j → e ∈ merged → f ∉ merged →
      i < j ∨ (i = j ∧ e.station < f.station))
  -- the test of R127
  ∧ (∀ (s : State) (r : Record), s.unrouted r = true ↔
      s.params.mode = .isolate
        ∨ (∃ e, s.lookup r.destination = some e ∧ (e.side = r.inSide ∨ e.admitConfirmed = false))
        ∨ (s.lookup r.destination = none ∧ s.params.unknownPolicy ≠ .pass))
  -- arguments cut short
  ∧ ∀ (s : State) (q : Request) (rest : List Request) (h : Session), s.numbered = true → s.executing q rest →
      q.command = some .commit → s.holds q h →
    let refused (i : Byte) : Prop := ∃ t, exec .commit s = .next t
      ∧ EndsAs (executed q rest { outcome := .badArgument, results := [i] } (renewLease q s)) t
    (q.args.length < 2 → refused 0) ∧ (q.args.length = 2 → refused 1)

/-- PURGE and RESTART (R165, R128, R166): the matching FORWARD records are withdrawn or marked and counted in the
response; a restart becomes pending with the record number of its own response; a bad argument, an out side of FFh among
them (log 21) and one cut short by LEN (R183), changes nothing. What a withdrawal cause does to a record by where it
stands (R121) and which records a purge matches are spelled out; the arbiters run after the whole purge (log 8). -/
def Obligations.PurgeAndRestart : Prop :=
  ∀ (s : State) (q : Request) (rest : List Request), s.numbered = true → s.executing q rest →
    s.permits q.station = true →
    let s1 := renewLease q s
    let gives (c : Instr) (o : OutcomeCode) (results : List Byte) (s' : State) : Prop :=
      ∃ t, exec c s = .next t ∧ EndsAs (executed q rest { outcome := o, results := results } s') t
    (q.command = some .purge →
      (∀ d1 d0 sides (destination : Option Nat) (side : Option Side), q.args = d1 :: d0 :: sides →
        ((destination = none ∧ d1 = 0xFF#8 ∧ d0 = 0xFF#8)
          ∨ (destination = some (d1.toNat * 256 + d0.toNat) ∧ 1 ≤ d1.toNat * 256 + d0.toNat
            ∧ d1.toNat * 256 + d0.toNat ≤ 1983)) →
        ((side = none ∧ sides = []) ∨ ∃ x extra, side = some x ∧ sides = sideCode x :: extra) →
        let s' := purgeRecords destination side s1
        gives .purge .done
          [BitVec.ofNat 8 (purgeCount .atOnce destination side s), BitVec.ofNat 8 (purgeCount .marked destination side s)] s'
        ∧ (∀ w, purgeCount w destination side s =
          (s.records.filter (fun r => purgeMatches destination side r && s.withdrawal r == w)).length)
        ∧ (∀ r ∈ s.records, purgeMatches destination side r = true → s.withdrawal r = .atOnce →
          ∃ p, s'.record? r.number = some p ∧ p.origin = .relay .notice ∧ p.destination = r.source
            ∧ p.outSide = r.inSide ∧ p.payload = noticePayload r .purged)
        ∧ (∀ r ∈ s.records, purgeMatches destination side r = true → s.withdrawal r = .marked →
          s'.record? r.number = some { r with mark := some .purged })
        ∧ (∀ n r, s.record? n = some r → purgeMatches destination side r = false ∨ s.withdrawal r = .kept →
          Holds s' n r)
        ∧ (∃ v, s' = arbitrateBoth v ∧ Withdrawn .purged (purgeMatches destination side) s1 v)
        ∧ ∀ r, purgeMatches destination side r = true ↔ r.origin = .forward ∧ (∀ d, destination = some d → r.destination = d)
          ∧ ∀ x, side = some x → r.outSide = x)
      ∧ (q.args.length < 2 → gives .purge .badArgument [0] s1)
      ∧ (∀ r, (∀ m, r.mark = some m → s.withdrawal r = .kept)
        ∧ (r.mark = none → (r.state = .queued ∨ (∃ m, r.state = .waiting m)
          ∨ (r.state = .sending ∧ (s.port r.outSide).state ≠ .sending)) → s.withdrawal r = .atOnce)
        ∧ (r.mark = none → (r.state = .awaiting ∨ (r.state = .sending ∧ (s.port r.outSide).state = .sending)) →
          s.withdrawal r = .marked))
      ∧ (∀ d1 d0 sides, q.args = d1 :: d0 :: sides →
        d1.toNat * 256 + d0.toNat = 0 ∨ (1983 < d1.toNat * 256 + d0.toNat ∧ d1.toNat * 256 + d0.toNat ≠ 65535) →
        gives .purge .badArgument [0] s1)
      ∧ (∀ d1 d0 side extra, q.args = d1 :: d0 :: side :: extra → 1 < side.toNat →
        ((1 ≤ d1.toNat * 256 + d0.toNat ∧ d1.toNat * 256 + d0.toNat ≤ 1983) ∨ d1.toNat * 256 + d0.toNat = 65535) →
        gives .purge .badArgument [1] s1))
    ∧ (q.command = some .restart →
      (∀ extra, q.args = 0#8 :: extra → gives .restart .done []
        { s1 with restart := some { kind := .queues, record := s.lowestFree } })
      ∧ (∀ extra, q.args = 1#8 :: extra → gives .restart .done []
        { s1 with restart := some { kind := .full, record := s.lowestFree } })
      ∧ (∀ k extra, q.args = k :: extra → 1 < k.toNat → gives .restart .badArgument [0] s1)
      ∧ (q.args = [] → gives .restart .badArgument [0] s1))

/-- SET_EVENT_STATION, SET_EVENT_MASK and CLEAR_EVENTS (R177 to R180) of a permitted requester; a set or station cut
short by LEN is refused (R183). -/
def Obligations.EventCommands : Prop :=
  ∀ (s : State) (q : Request) (rest : List Request), s.numbered = true → s.executing q rest →
    s.permits q.station = true →
    let s1 := renewLease q s
    let gives (c : Instr) (o : OutcomeCode) (results : List Byte) (s' : State) : Prop :=
      ∃ t, exec c s = .next t ∧ EndsAs (executed q rest { outcome := o, results := results } s') t
    (∀ b1 b0 extra, q.args = b1 :: b0 :: extra →
      let n := b1.toNat * 256 + b0.toNat
      let set : EventSet := b1 ++ b0
      (q.command = some .setEventStation →
        (n = 0 ∨ (1 ≤ n ∧ n ≤ 1983 ∧ n ≠ s.own) →
          gives .setEventStation .done []
            { s1 with
              eventStation := if n = 0 then none else some (n, q.side)
              reported := 0#16
              eventRecord := s.eventRecord.map (fun f => { f with sent := 0#16 }) })
        ∧ (1983 < n ∨ (n ≠ 0 ∧ n = s.own) → gives .setEventStation .badArgument [0] s1))
      ∧ (q.command = some .setEventMask → gives .setEventMask .done [] { s1 with mask := set })
      ∧ (q.command = some .clearEvents →
        gives .clearEvents .done []
          { s1 with
            latched := s.latched &&& ~~~set
            reported := s.reported &&& ~~~set
            eventRecord := s.eventRecord.map (fun f => { f with sent := f.sent &&& ~~~set }) }))
    ∧ (q.args.length < 2 →
      (q.command = some .setEventStation → gives .setEventStation .badArgument [0] s1)
      ∧ (q.command = some .setEventMask → gives .setEventMask .badArgument [0] s1)
      ∧ (q.command = some .clearEvents → gives .clearEvents .badArgument [0] s1))

/-! ## Laws that every step keeps -/

/-- In every step the free count and the cells held make 384, over records that each have a descriptor of their own, and
at most 60 descriptors hold FORWARD records (R74, R106). -/
def Obligations.PoolAndDescriptorsKept : Prop :=
  ∀ s t : State, step s = .next t →
    (s.balanced = true → t.balanced = true) ∧ (s.forwardBounded = true → t.forwardBounded = true)

/-- In every step the reported and the sent set hold latched events only (R173). -/
def Obligations.EventSetsKept : Prop :=
  ∀ s t : State, s.eventSetsOk = true → step s = .next t → t.eventSetsOk = true

/-- In every step the parts of each port agree with its state: choice, deferral, loss count, return state, awaited
record, reply timer and what is on the line (R19, R20, R29). With them records and ports agree: a record is SENDING
exactly when its out side's port has chosen it and AWAITING exactly when it is awaited there, and none that is not
QUEUED stands behind an older one with its out side and destination (R20, R110, R111). -/
def Obligations.PortsKept : Prop :=
  (∀ s t : State, s.portsLegal = true → step s = .next t → t.portsLegal = true)
    ∧ ∀ s t : State, s.portsLegal = true → s.numbered = true → s.matched = true → step s = .next t →
      t.portsLegal = true ∧ t.numbered = true ∧ t.matched = true

/-- In every step the parameters stay in their ranges, the tables hold individual stations other than OWN once each, and
tables and queues stay within their limits (R134, R43, R87, R137, R82, R101). -/
def Obligations.TablesKept : Prop :=
  ∀ s t : State, s.paramsOk = true → s.tablesOk = true → s.queuesOk = true → step s = .next t →
    t.paramsOk = true ∧ t.tablesOk = true ∧ t.queuesOk = true

end
end

