-- ==== Sys2Proof/Laws/State.lean ====
section
/-! SUPPORT. What each named update leaves of the state: one lemma per field and update, so that no later proof unfolds a
record update. -/

namespace Sys2Proof.Machine

/-- Counting once is counting by one. -/
@[simp] theorem count_eq_countBy (c : Counter) (s : State) : count c s = countBy c 1 s := rfl

/-! ## elapse -/

@[simp] theorem elapse_held (dt : Nat) (s : State) : (elapse dt s).held = s.held := rfl
@[simp] theorem elapse_pins (dt : Nat) (s : State) : (elapse dt s).pins = s.pins := rfl
@[simp] theorem elapse_own (dt : Nat) (s : State) : (elapse dt s).own = s.own := rfl
@[simp] theorem elapse_rate (dt : Nat) (s : State) : (elapse dt s).rate = s.rate := rfl
@[simp] theorem elapse_portA (dt : Nat) (s : State) : (elapse dt s).portA = s.portA := rfl
@[simp] theorem elapse_portB (dt : Nat) (s : State) : (elapse dt s).portB = s.portB := rfl
@[simp] theorem elapse_stations (dt : Nat) (s : State) : (elapse dt s).stations = s.stations := rfl
@[simp] theorem elapse_nextTick (dt : Nat) (s : State) : (elapse dt s).nextTick = s.nextTick := rfl
@[simp] theorem elapse_free (dt : Nat) (s : State) : (elapse dt s).free = s.free := rfl
@[simp] theorem elapse_queueA (dt : Nat) (s : State) : (elapse dt s).queueA = s.queueA := rfl
@[simp] theorem elapse_queueB (dt : Nat) (s : State) : (elapse dt s).queueB = s.queueB := rfl
@[simp] theorem elapse_dups (dt : Nat) (s : State) : (elapse dt s).dups = s.dups := rfl
@[simp] theorem elapse_records (dt : Nat) (s : State) : (elapse dt s).records = s.records := rfl
@[simp] theorem elapse_ownSeq (dt : Nat) (s : State) : (elapse dt s).ownSeq = s.ownSeq := rfl
@[simp] theorem elapse_groupsAB (dt : Nat) (s : State) : (elapse dt s).groupsAB = s.groupsAB := rfl
@[simp] theorem elapse_groupsBA (dt : Nat) (s : State) : (elapse dt s).groupsBA = s.groupsBA := rfl
@[simp] theorem elapse_params (dt : Nat) (s : State) : (elapse dt s).params = s.params := rfl
@[simp] theorem elapse_epoch (dt : Nat) (s : State) : (elapse dt s).epoch = s.epoch := rfl
@[simp] theorem elapse_session (dt : Nat) (s : State) : (elapse dt s).session = s.session := rfl
@[simp] theorem elapse_requests (dt : Nat) (s : State) : (elapse dt s).requests = s.requests := rfl
@[simp] theorem elapse_restart (dt : Nat) (s : State) : (elapse dt s).restart = s.restart := rfl
@[simp] theorem elapse_restartDue (dt : Nat) (s : State) : (elapse dt s).restartDue = s.restartDue := rfl
@[simp] theorem elapse_respClaim (dt : Nat) (s : State) : (elapse dt s).respClaim = s.respClaim := rfl
@[simp] theorem elapse_eventClaim (dt : Nat) (s : State) : (elapse dt s).eventClaim = s.eventClaim := rfl
@[simp] theorem elapse_claimsDue (dt : Nat) (s : State) : (elapse dt s).claimsDue = s.claimsDue := rfl
@[simp] theorem elapse_headDue (dt : Nat) (s : State) : (elapse dt s).headDue = s.headDue := rfl
@[simp] theorem elapse_counters (dt : Nat) (s : State) : (elapse dt s).counters = s.counters := rfl
@[simp] theorem elapse_latched (dt : Nat) (s : State) : (elapse dt s).latched = s.latched := rfl
@[simp] theorem elapse_mask (dt : Nat) (s : State) : (elapse dt s).mask = s.mask := rfl
@[simp] theorem elapse_reported (dt : Nat) (s : State) : (elapse dt s).reported = s.reported := rfl
@[simp] theorem elapse_eventStation (dt : Nat) (s : State) : (elapse dt s).eventStation = s.eventStation := rfl
@[simp] theorem elapse_eventRecord (dt : Nat) (s : State) : (elapse dt s).eventRecord = s.eventRecord := rfl
@[simp] theorem elapse_repeatTimer (dt : Nat) (s : State) : (elapse dt s).repeatTimer = s.repeatTimer := rfl
@[simp] theorem elapse_pending (dt : Nat) (s : State) : (elapse dt s).pending = s.pending := rfl

/-! ## reach -/

@[simp] theorem reach_held (m : Nat) (s : State) : (reach m s).held = s.held := rfl
@[simp] theorem reach_pins (m : Nat) (s : State) : (reach m s).pins = s.pins := rfl
@[simp] theorem reach_own (m : Nat) (s : State) : (reach m s).own = s.own := rfl
@[simp] theorem reach_rate (m : Nat) (s : State) : (reach m s).rate = s.rate := rfl
@[simp] theorem reach_portA (m : Nat) (s : State) : (reach m s).portA = s.portA := rfl
@[simp] theorem reach_portB (m : Nat) (s : State) : (reach m s).portB = s.portB := rfl
@[simp] theorem reach_stations (m : Nat) (s : State) : (reach m s).stations = s.stations := rfl
@[simp] theorem reach_nextTick (m : Nat) (s : State) : (reach m s).nextTick = s.nextTick := rfl
@[simp] theorem reach_free (m : Nat) (s : State) : (reach m s).free = s.free := rfl
@[simp] theorem reach_queueA (m : Nat) (s : State) : (reach m s).queueA = s.queueA := rfl
@[simp] theorem reach_queueB (m : Nat) (s : State) : (reach m s).queueB = s.queueB := rfl
@[simp] theorem reach_dups (m : Nat) (s : State) : (reach m s).dups = s.dups := rfl
@[simp] theorem reach_records (m : Nat) (s : State) : (reach m s).records = s.records := rfl
@[simp] theorem reach_ownSeq (m : Nat) (s : State) : (reach m s).ownSeq = s.ownSeq := rfl
@[simp] theorem reach_groupsAB (m : Nat) (s : State) : (reach m s).groupsAB = s.groupsAB := rfl
@[simp] theorem reach_groupsBA (m : Nat) (s : State) : (reach m s).groupsBA = s.groupsBA := rfl
@[simp] theorem reach_params (m : Nat) (s : State) : (reach m s).params = s.params := rfl
@[simp] theorem reach_epoch (m : Nat) (s : State) : (reach m s).epoch = s.epoch := rfl
@[simp] theorem reach_session (m : Nat) (s : State) : (reach m s).session = s.session := rfl
@[simp] theorem reach_requests (m : Nat) (s : State) : (reach m s).requests = s.requests := rfl
@[simp] theorem reach_restart (m : Nat) (s : State) : (reach m s).restart = s.restart := rfl
@[simp] theorem reach_restartDue (m : Nat) (s : State) : (reach m s).restartDue = s.restartDue := rfl
@[simp] theorem reach_respClaim (m : Nat) (s : State) : (reach m s).respClaim = s.respClaim := rfl
@[simp] theorem reach_eventClaim (m : Nat) (s : State) : (reach m s).eventClaim = s.eventClaim := rfl
@[simp] theorem reach_claimsDue (m : Nat) (s : State) : (reach m s).claimsDue = s.claimsDue := rfl
@[simp] theorem reach_headDue (m : Nat) (s : State) : (reach m s).headDue = s.headDue := rfl
@[simp] theorem reach_counters (m : Nat) (s : State) : (reach m s).counters = s.counters := rfl
@[simp] theorem reach_latched (m : Nat) (s : State) : (reach m s).latched = s.latched := rfl
@[simp] theorem reach_mask (m : Nat) (s : State) : (reach m s).mask = s.mask := rfl
@[simp] theorem reach_reported (m : Nat) (s : State) : (reach m s).reported = s.reported := rfl
@[simp] theorem reach_eventStation (m : Nat) (s : State) : (reach m s).eventStation = s.eventStation := rfl
@[simp] theorem reach_eventRecord (m : Nat) (s : State) : (reach m s).eventRecord = s.eventRecord := rfl
@[simp] theorem reach_repeatTimer (m : Nat) (s : State) : (reach m s).repeatTimer = s.repeatTimer := rfl
@[simp] theorem reach_pending (m : Nat) (s : State) : (reach m s).pending = s.pending := rfl

/-! ## latch -/

@[simp] theorem latch_now (e : Event) (s : State) : (latch e s).now = s.now := rfl
@[simp] theorem latch_held (e : Event) (s : State) : (latch e s).held = s.held := rfl
@[simp] theorem latch_pins (e : Event) (s : State) : (latch e s).pins = s.pins := rfl
@[simp] theorem latch_own (e : Event) (s : State) : (latch e s).own = s.own := rfl
@[simp] theorem latch_rate (e : Event) (s : State) : (latch e s).rate = s.rate := rfl
@[simp] theorem latch_portA (e : Event) (s : State) : (latch e s).portA = s.portA := rfl
@[simp] theorem latch_portB (e : Event) (s : State) : (latch e s).portB = s.portB := rfl
@[simp] theorem latch_stations (e : Event) (s : State) : (latch e s).stations = s.stations := rfl
@[simp] theorem latch_nextTick (e : Event) (s : State) : (latch e s).nextTick = s.nextTick := rfl
@[simp] theorem latch_free (e : Event) (s : State) : (latch e s).free = s.free := rfl
@[simp] theorem latch_queueA (e : Event) (s : State) : (latch e s).queueA = s.queueA := rfl
@[simp] theorem latch_queueB (e : Event) (s : State) : (latch e s).queueB = s.queueB := rfl
@[simp] theorem latch_dups (e : Event) (s : State) : (latch e s).dups = s.dups := rfl
@[simp] theorem latch_records (e : Event) (s : State) : (latch e s).records = s.records := rfl
@[simp] theorem latch_ownSeq (e : Event) (s : State) : (latch e s).ownSeq = s.ownSeq := rfl
@[simp] theorem latch_groupsAB (e : Event) (s : State) : (latch e s).groupsAB = s.groupsAB := rfl
@[simp] theorem latch_groupsBA (e : Event) (s : State) : (latch e s).groupsBA = s.groupsBA := rfl
@[simp] theorem latch_params (e : Event) (s : State) : (latch e s).params = s.params := rfl
@[simp] theorem latch_epoch (e : Event) (s : State) : (latch e s).epoch = s.epoch := rfl
@[simp] theorem latch_session (e : Event) (s : State) : (latch e s).session = s.session := rfl
@[simp] theorem latch_requests (e : Event) (s : State) : (latch e s).requests = s.requests := rfl
@[simp] theorem latch_restart (e : Event) (s : State) : (latch e s).restart = s.restart := rfl
@[simp] theorem latch_restartDue (e : Event) (s : State) : (latch e s).restartDue = s.restartDue := rfl
@[simp] theorem latch_respClaim (e : Event) (s : State) : (latch e s).respClaim = s.respClaim := rfl
@[simp] theorem latch_eventClaim (e : Event) (s : State) : (latch e s).eventClaim = s.eventClaim := rfl
@[simp] theorem latch_claimsDue (e : Event) (s : State) : (latch e s).claimsDue = s.claimsDue := rfl
@[simp] theorem latch_headDue (e : Event) (s : State) : (latch e s).headDue = s.headDue := rfl
@[simp] theorem latch_counters (e : Event) (s : State) : (latch e s).counters = s.counters := rfl
@[simp] theorem latch_mask (e : Event) (s : State) : (latch e s).mask = s.mask := rfl
@[simp] theorem latch_reported (e : Event) (s : State) : (latch e s).reported = s.reported := rfl
@[simp] theorem latch_eventStation (e : Event) (s : State) : (latch e s).eventStation = s.eventStation := rfl
@[simp] theorem latch_eventRecord (e : Event) (s : State) : (latch e s).eventRecord = s.eventRecord := rfl
@[simp] theorem latch_repeatTimer (e : Event) (s : State) : (latch e s).repeatTimer = s.repeatTimer := rfl
@[simp] theorem latch_pending (e : Event) (s : State) : (latch e s).pending = s.pending := rfl

/-! ## countBy -/

@[simp] theorem countBy_now (c : Counter) (n : Nat) (s : State) : (countBy c n s).now = s.now := rfl
@[simp] theorem countBy_held (c : Counter) (n : Nat) (s : State) : (countBy c n s).held = s.held := rfl
@[simp] theorem countBy_pins (c : Counter) (n : Nat) (s : State) : (countBy c n s).pins = s.pins := rfl
@[simp] theorem countBy_own (c : Counter) (n : Nat) (s : State) : (countBy c n s).own = s.own := rfl
@[simp] theorem countBy_rate (c : Counter) (n : Nat) (s : State) : (countBy c n s).rate = s.rate := rfl
@[simp] theorem countBy_portA (c : Counter) (n : Nat) (s : State) : (countBy c n s).portA = s.portA := rfl
@[simp] theorem countBy_portB (c : Counter) (n : Nat) (s : State) : (countBy c n s).portB = s.portB := rfl
@[simp] theorem countBy_stations (c : Counter) (n : Nat) (s : State) : (countBy c n s).stations = s.stations := rfl
@[simp] theorem countBy_nextTick (c : Counter) (n : Nat) (s : State) : (countBy c n s).nextTick = s.nextTick := rfl
@[simp] theorem countBy_free (c : Counter) (n : Nat) (s : State) : (countBy c n s).free = s.free := rfl
@[simp] theorem countBy_queueA (c : Counter) (n : Nat) (s : State) : (countBy c n s).queueA = s.queueA := rfl
@[simp] theorem countBy_queueB (c : Counter) (n : Nat) (s : State) : (countBy c n s).queueB = s.queueB := rfl
@[simp] theorem countBy_dups (c : Counter) (n : Nat) (s : State) : (countBy c n s).dups = s.dups := rfl
@[simp] theorem countBy_records (c : Counter) (n : Nat) (s : State) : (countBy c n s).records = s.records := rfl
@[simp] theorem countBy_ownSeq (c : Counter) (n : Nat) (s : State) : (countBy c n s).ownSeq = s.ownSeq := rfl
@[simp] theorem countBy_groupsAB (c : Counter) (n : Nat) (s : State) : (countBy c n s).groupsAB = s.groupsAB := rfl
@[simp] theorem countBy_groupsBA (c : Counter) (n : Nat) (s : State) : (countBy c n s).groupsBA = s.groupsBA := rfl
@[simp] theorem countBy_params (c : Counter) (n : Nat) (s : State) : (countBy c n s).params = s.params := rfl
@[simp] theorem countBy_epoch (c : Counter) (n : Nat) (s : State) : (countBy c n s).epoch = s.epoch := rfl
@[simp] theorem countBy_session (c : Counter) (n : Nat) (s : State) : (countBy c n s).session = s.session := rfl
@[simp] theorem countBy_requests (c : Counter) (n : Nat) (s : State) : (countBy c n s).requests = s.requests := rfl
@[simp] theorem countBy_restart (c : Counter) (n : Nat) (s : State) : (countBy c n s).restart = s.restart := rfl
@[simp] theorem countBy_restartDue (c : Counter) (n : Nat) (s : State) : (countBy c n s).restartDue = s.restartDue := rfl
@[simp] theorem countBy_respClaim (c : Counter) (n : Nat) (s : State) : (countBy c n s).respClaim = s.respClaim := rfl
@[simp] theorem countBy_eventClaim (c : Counter) (n : Nat) (s : State) : (countBy c n s).eventClaim = s.eventClaim := rfl
@[simp] theorem countBy_claimsDue (c : Counter) (n : Nat) (s : State) : (countBy c n s).claimsDue = s.claimsDue := rfl
@[simp] theorem countBy_headDue (c : Counter) (n : Nat) (s : State) : (countBy c n s).headDue = s.headDue := rfl
@[simp] theorem countBy_latched (c : Counter) (n : Nat) (s : State) : (countBy c n s).latched = s.latched := rfl
@[simp] theorem countBy_mask (c : Counter) (n : Nat) (s : State) : (countBy c n s).mask = s.mask := rfl
@[simp] theorem countBy_reported (c : Counter) (n : Nat) (s : State) : (countBy c n s).reported = s.reported := rfl
@[simp] theorem countBy_eventStation (c : Counter) (n : Nat) (s : State) : (countBy c n s).eventStation = s.eventStation := rfl
@[simp] theorem countBy_eventRecord (c : Counter) (n : Nat) (s : State) : (countBy c n s).eventRecord = s.eventRecord := rfl
@[simp] theorem countBy_repeatTimer (c : Counter) (n : Nat) (s : State) : (countBy c n s).repeatTimer = s.repeatTimer := rfl
@[simp] theorem countBy_pending (c : Counter) (n : Nat) (s : State) : (countBy c n s).pending = s.pending := rfl

/-! ## claimCells -/

@[simp] theorem claimCells_now (n : Nat) (s : State) : (claimCells n s).now = s.now := rfl
@[simp] theorem claimCells_held (n : Nat) (s : State) : (claimCells n s).held = s.held := rfl
@[simp] theorem claimCells_pins (n : Nat) (s : State) : (claimCells n s).pins = s.pins := rfl
@[simp] theorem claimCells_own (n : Nat) (s : State) : (claimCells n s).own = s.own := rfl
@[simp] theorem claimCells_rate (n : Nat) (s : State) : (claimCells n s).rate = s.rate := rfl
@[simp] theorem claimCells_portA (n : Nat) (s : State) : (claimCells n s).portA = s.portA := rfl
@[simp] theorem claimCells_portB (n : Nat) (s : State) : (claimCells n s).portB = s.portB := rfl
@[simp] theorem claimCells_stations (n : Nat) (s : State) : (claimCells n s).stations = s.stations := rfl
@[simp] theorem claimCells_nextTick (n : Nat) (s : State) : (claimCells n s).nextTick = s.nextTick := rfl
@[simp] theorem claimCells_queueA (n : Nat) (s : State) : (claimCells n s).queueA = s.queueA := rfl
@[simp] theorem claimCells_queueB (n : Nat) (s : State) : (claimCells n s).queueB = s.queueB := rfl
@[simp] theorem claimCells_dups (n : Nat) (s : State) : (claimCells n s).dups = s.dups := rfl
@[simp] theorem claimCells_records (n : Nat) (s : State) : (claimCells n s).records = s.records := rfl
@[simp] theorem claimCells_ownSeq (n : Nat) (s : State) : (claimCells n s).ownSeq = s.ownSeq := rfl
@[simp] theorem claimCells_groupsAB (n : Nat) (s : State) : (claimCells n s).groupsAB = s.groupsAB := rfl
@[simp] theorem claimCells_groupsBA (n : Nat) (s : State) : (claimCells n s).groupsBA = s.groupsBA := rfl
@[simp] theorem claimCells_params (n : Nat) (s : State) : (claimCells n s).params = s.params := rfl
@[simp] theorem claimCells_epoch (n : Nat) (s : State) : (claimCells n s).epoch = s.epoch := rfl
@[simp] theorem claimCells_session (n : Nat) (s : State) : (claimCells n s).session = s.session := rfl
@[simp] theorem claimCells_requests (n : Nat) (s : State) : (claimCells n s).requests = s.requests := rfl
@[simp] theorem claimCells_restart (n : Nat) (s : State) : (claimCells n s).restart = s.restart := rfl
@[simp] theorem claimCells_restartDue (n : Nat) (s : State) : (claimCells n s).restartDue = s.restartDue := rfl
@[simp] theorem claimCells_respClaim (n : Nat) (s : State) : (claimCells n s).respClaim = s.respClaim := rfl
@[simp] theorem claimCells_eventClaim (n : Nat) (s : State) : (claimCells n s).eventClaim = s.eventClaim := rfl
@[simp] theorem claimCells_claimsDue (n : Nat) (s : State) : (claimCells n s).claimsDue = s.claimsDue := rfl
@[simp] theorem claimCells_headDue (n : Nat) (s : State) : (claimCells n s).headDue = s.headDue := rfl
@[simp] theorem claimCells_counters (n : Nat) (s : State) : (claimCells n s).counters = s.counters := rfl
@[simp] theorem claimCells_mask (n : Nat) (s : State) : (claimCells n s).mask = s.mask := rfl
@[simp] theorem claimCells_reported (n : Nat) (s : State) : (claimCells n s).reported = s.reported := rfl
@[simp] theorem claimCells_eventStation (n : Nat) (s : State) : (claimCells n s).eventStation = s.eventStation := rfl
@[simp] theorem claimCells_eventRecord (n : Nat) (s : State) : (claimCells n s).eventRecord = s.eventRecord := rfl
@[simp] theorem claimCells_repeatTimer (n : Nat) (s : State) : (claimCells n s).repeatTimer = s.repeatTimer := rfl
@[simp] theorem claimCells_pending (n : Nat) (s : State) : (claimCells n s).pending = s.pending := rfl

/-! ## releaseCells -/

@[simp] theorem releaseCells_now (n : Nat) (s : State) : (releaseCells n s).now = s.now := rfl
@[simp] theorem releaseCells_held (n : Nat) (s : State) : (releaseCells n s).held = s.held := rfl
@[simp] theorem releaseCells_pins (n : Nat) (s : State) : (releaseCells n s).pins = s.pins := rfl
@[simp] theorem releaseCells_own (n : Nat) (s : State) : (releaseCells n s).own = s.own := rfl
@[simp] theorem releaseCells_rate (n : Nat) (s : State) : (releaseCells n s).rate = s.rate := rfl
@[simp] theorem releaseCells_portA (n : Nat) (s : State) : (releaseCells n s).portA = s.portA := rfl
@[simp] theorem releaseCells_portB (n : Nat) (s : State) : (releaseCells n s).portB = s.portB := rfl
@[simp] theorem releaseCells_stations (n : Nat) (s : State) : (releaseCells n s).stations = s.stations := rfl
@[simp] theorem releaseCells_nextTick (n : Nat) (s : State) : (releaseCells n s).nextTick = s.nextTick := rfl
@[simp] theorem releaseCells_queueA (n : Nat) (s : State) : (releaseCells n s).queueA = s.queueA := rfl
@[simp] theorem releaseCells_queueB (n : Nat) (s : State) : (releaseCells n s).queueB = s.queueB := rfl
@[simp] theorem releaseCells_dups (n : Nat) (s : State) : (releaseCells n s).dups = s.dups := rfl
@[simp] theorem releaseCells_records (n : Nat) (s : State) : (releaseCells n s).records = s.records := rfl
@[simp] theorem releaseCells_ownSeq (n : Nat) (s : State) : (releaseCells n s).ownSeq = s.ownSeq := rfl
@[simp] theorem releaseCells_groupsAB (n : Nat) (s : State) : (releaseCells n s).groupsAB = s.groupsAB := rfl
@[simp] theorem releaseCells_groupsBA (n : Nat) (s : State) : (releaseCells n s).groupsBA = s.groupsBA := rfl
@[simp] theorem releaseCells_params (n : Nat) (s : State) : (releaseCells n s).params = s.params := rfl
@[simp] theorem releaseCells_epoch (n : Nat) (s : State) : (releaseCells n s).epoch = s.epoch := rfl
@[simp] theorem releaseCells_session (n : Nat) (s : State) : (releaseCells n s).session = s.session := rfl
@[simp] theorem releaseCells_requests (n : Nat) (s : State) : (releaseCells n s).requests = s.requests := rfl
@[simp] theorem releaseCells_restart (n : Nat) (s : State) : (releaseCells n s).restart = s.restart := rfl
@[simp] theorem releaseCells_restartDue (n : Nat) (s : State) : (releaseCells n s).restartDue = s.restartDue := rfl
@[simp] theorem releaseCells_respClaim (n : Nat) (s : State) : (releaseCells n s).respClaim = s.respClaim := rfl
@[simp] theorem releaseCells_eventClaim (n : Nat) (s : State) : (releaseCells n s).eventClaim = s.eventClaim := rfl
@[simp] theorem releaseCells_headDue (n : Nat) (s : State) : (releaseCells n s).headDue = s.headDue := rfl
@[simp] theorem releaseCells_counters (n : Nat) (s : State) : (releaseCells n s).counters = s.counters := rfl
@[simp] theorem releaseCells_latched (n : Nat) (s : State) : (releaseCells n s).latched = s.latched := rfl
@[simp] theorem releaseCells_mask (n : Nat) (s : State) : (releaseCells n s).mask = s.mask := rfl
@[simp] theorem releaseCells_reported (n : Nat) (s : State) : (releaseCells n s).reported = s.reported := rfl
@[simp] theorem releaseCells_eventStation (n : Nat) (s : State) : (releaseCells n s).eventStation = s.eventStation := rfl
@[simp] theorem releaseCells_eventRecord (n : Nat) (s : State) : (releaseCells n s).eventRecord = s.eventRecord := rfl
@[simp] theorem releaseCells_repeatTimer (n : Nat) (s : State) : (releaseCells n s).repeatTimer = s.repeatTimer := rfl
@[simp] theorem releaseCells_pending (n : Nat) (s : State) : (releaseCells n s).pending = s.pending := rfl

/-! ## setPort -/

@[simp] theorem setPort_now (x : Side) (p : Port) (s : State) : (setPort x p s).now = s.now := by cases x <;> rfl
@[simp] theorem setPort_held (x : Side) (p : Port) (s : State) : (setPort x p s).held = s.held := by cases x <;> rfl
@[simp] theorem setPort_pins (x : Side) (p : Port) (s : State) : (setPort x p s).pins = s.pins := by cases x <;> rfl
@[simp] theorem setPort_own (x : Side) (p : Port) (s : State) : (setPort x p s).own = s.own := by cases x <;> rfl
@[simp] theorem setPort_rate (x : Side) (p : Port) (s : State) : (setPort x p s).rate = s.rate := by cases x <;> rfl
@[simp] theorem setPort_stations (x : Side) (p : Port) (s : State) : (setPort x p s).stations = s.stations := by cases x <;> rfl
@[simp] theorem setPort_nextTick (x : Side) (p : Port) (s : State) : (setPort x p s).nextTick = s.nextTick := by cases x <;> rfl
@[simp] theorem setPort_free (x : Side) (p : Port) (s : State) : (setPort x p s).free = s.free := by cases x <;> rfl
@[simp] theorem setPort_queueA (x : Side) (p : Port) (s : State) : (setPort x p s).queueA = s.queueA := by cases x <;> rfl
@[simp] theorem setPort_queueB (x : Side) (p : Port) (s : State) : (setPort x p s).queueB = s.queueB := by cases x <;> rfl
@[simp] theorem setPort_dups (x : Side) (p : Port) (s : State) : (setPort x p s).dups = s.dups := by cases x <;> rfl
@[simp] theorem setPort_records (x : Side) (p : Port) (s : State) : (setPort x p s).records = s.records := by cases x <;> rfl
@[simp] theorem setPort_ownSeq (x : Side) (p : Port) (s : State) : (setPort x p s).ownSeq = s.ownSeq := by cases x <;> rfl
@[simp] theorem setPort_groupsAB (x : Side) (p : Port) (s : State) : (setPort x p s).groupsAB = s.groupsAB := by cases x <;> rfl
@[simp] theorem setPort_groupsBA (x : Side) (p : Port) (s : State) : (setPort x p s).groupsBA = s.groupsBA := by cases x <;> rfl
@[simp] theorem setPort_params (x : Side) (p : Port) (s : State) : (setPort x p s).params = s.params := by cases x <;> rfl
@[simp] theorem setPort_epoch (x : Side) (p : Port) (s : State) : (setPort x p s).epoch = s.epoch := by cases x <;> rfl
@[simp] theorem setPort_session (x : Side) (p : Port) (s : State) : (setPort x p s).session = s.session := by cases x <;> rfl
@[simp] theorem setPort_requests (x : Side) (p : Port) (s : State) : (setPort x p s).requests = s.requests := by cases x <;> rfl
@[simp] theorem setPort_restart (x : Side) (p : Port) (s : State) : (setPort x p s).restart = s.restart := by cases x <;> rfl
@[simp] theorem setPort_restartDue (x : Side) (p : Port) (s : State) : (setPort x p s).restartDue = s.restartDue := by cases x <;> rfl
@[simp] theorem setPort_respClaim (x : Side) (p : Port) (s : State) : (setPort x p s).respClaim = s.respClaim := by cases x <;> rfl
@[simp] theorem setPort_eventClaim (x : Side) (p : Port) (s : State) : (setPort x p s).eventClaim = s.eventClaim := by cases x <;> rfl
@[simp] theorem setPort_claimsDue (x : Side) (p : Port) (s : State) : (setPort x p s).claimsDue = s.claimsDue := by cases x <;> rfl
@[simp] theorem setPort_headDue (x : Side) (p : Port) (s : State) : (setPort x p s).headDue = s.headDue := by cases x <;> rfl
@[simp] theorem setPort_counters (x : Side) (p : Port) (s : State) : (setPort x p s).counters = s.counters := by cases x <;> rfl
@[simp] theorem setPort_latched (x : Side) (p : Port) (s : State) : (setPort x p s).latched = s.latched := by cases x <;> rfl
@[simp] theorem setPort_mask (x : Side) (p : Port) (s : State) : (setPort x p s).mask = s.mask := by cases x <;> rfl
@[simp] theorem setPort_reported (x : Side) (p : Port) (s : State) : (setPort x p s).reported = s.reported := by cases x <;> rfl
@[simp] theorem setPort_eventStation (x : Side) (p : Port) (s : State) : (setPort x p s).eventStation = s.eventStation := by cases x <;> rfl
@[simp] theorem setPort_eventRecord (x : Side) (p : Port) (s : State) : (setPort x p s).eventRecord = s.eventRecord := by cases x <;> rfl
@[simp] theorem setPort_repeatTimer (x : Side) (p : Port) (s : State) : (setPort x p s).repeatTimer = s.repeatTimer := by cases x <;> rfl
@[simp] theorem setPort_pending (x : Side) (p : Port) (s : State) : (setPort x p s).pending = s.pending := by cases x <;> rfl

/-! ## setQueue -/

@[simp] theorem setQueue_now (x : Side) (q : List PlainEntry) (s : State) : (setQueue x q s).now = s.now := by cases x <;> rfl
@[simp] theorem setQueue_held (x : Side) (q : List PlainEntry) (s : State) : (setQueue x q s).held = s.held := by cases x <;> rfl
@[simp] theorem setQueue_pins (x : Side) (q : List PlainEntry) (s : State) : (setQueue x q s).pins = s.pins := by cases x <;> rfl
@[simp] theorem setQueue_own (x : Side) (q : List PlainEntry) (s : State) : (setQueue x q s).own = s.own := by cases x <;> rfl
@[simp] theorem setQueue_rate (x : Side) (q : List PlainEntry) (s : State) : (setQueue x q s).rate = s.rate := by cases x <;> rfl
@[simp] theorem setQueue_portA (x : Side) (q : List PlainEntry) (s : State) : (setQueue x q s).portA = s.portA := by cases x <;> rfl
@[simp] theorem setQueue_portB (x : Side) (q : List PlainEntry) (s : State) : (setQueue x q s).portB = s.portB := by cases x <;> rfl
@[simp] theorem setQueue_stations (x : Side) (q : List PlainEntry) (s : State) : (setQueue x q s).stations = s.stations := by cases x <;> rfl
@[simp] theorem setQueue_nextTick (x : Side) (q : List PlainEntry) (s : State) : (setQueue x q s).nextTick = s.nextTick := by cases x <;> rfl
@[simp] theorem setQueue_free (x : Side) (q : List PlainEntry) (s : State) : (setQueue x q s).free = s.free := by cases x <;> rfl
@[simp] theorem setQueue_dups (x : Side) (q : List PlainEntry) (s : State) : (setQueue x q s).dups = s.dups := by cases x <;> rfl
@[simp] theorem setQueue_records (x : Side) (q : List PlainEntry) (s : State) : (setQueue x q s).records = s.records := by cases x <;> rfl
@[simp] theorem setQueue_ownSeq (x : Side) (q : List PlainEntry) (s : State) : (setQueue x q s).ownSeq = s.ownSeq := by cases x <;> rfl
@[simp] theorem setQueue_groupsAB (x : Side) (q : List PlainEntry) (s : State) : (setQueue x q s).groupsAB = s.groupsAB := by cases x <;> rfl
@[simp] theorem setQueue_groupsBA (x : Side) (q : List PlainEntry) (s : State) : (setQueue x q s).groupsBA = s.groupsBA := by cases x <;> rfl
@[simp] theorem setQueue_params (x : Side) (q : List PlainEntry) (s : State) : (setQueue x q s).params = s.params := by cases x <;> rfl
@[simp] theorem setQueue_epoch (x : Side) (q : List PlainEntry) (s : State) : (setQueue x q s).epoch = s.epoch := by cases x <;> rfl
@[simp] theorem setQueue_session (x : Side) (q : List PlainEntry) (s : State) : (setQueue x q s).session = s.session := by cases x <;> rfl
@[simp] theorem setQueue_requests (x : Side) (q : List PlainEntry) (s : State) : (setQueue x q s).requests = s.requests := by cases x <;> rfl
@[simp] theorem setQueue_restart (x : Side) (q : List PlainEntry) (s : State) : (setQueue x q s).restart = s.restart := by cases x <;> rfl
@[simp] theorem setQueue_restartDue (x : Side) (q : List PlainEntry) (s : State) : (setQueue x q s).restartDue = s.restartDue := by cases x <;> rfl
@[simp] theorem setQueue_respClaim (x : Side) (q : List PlainEntry) (s : State) : (setQueue x q s).respClaim = s.respClaim := by cases x <;> rfl
@[simp] theorem setQueue_eventClaim (x : Side) (q : List PlainEntry) (s : State) : (setQueue x q s).eventClaim = s.eventClaim := by cases x <;> rfl
@[simp] theorem setQueue_claimsDue (x : Side) (q : List PlainEntry) (s : State) : (setQueue x q s).claimsDue = s.claimsDue := by cases x <;> rfl
@[simp] theorem setQueue_headDue (x : Side) (q : List PlainEntry) (s : State) : (setQueue x q s).headDue = s.headDue := by cases x <;> rfl
@[simp] theorem setQueue_counters (x : Side) (q : List PlainEntry) (s : State) : (setQueue x q s).counters = s.counters := by cases x <;> rfl
@[simp] theorem setQueue_latched (x : Side) (q : List PlainEntry) (s : State) : (setQueue x q s).latched = s.latched := by cases x <;> rfl
@[simp] theorem setQueue_mask (x : Side) (q : List PlainEntry) (s : State) : (setQueue x q s).mask = s.mask := by cases x <;> rfl
@[simp] theorem setQueue_reported (x : Side) (q : List PlainEntry) (s : State) : (setQueue x q s).reported = s.reported := by cases x <;> rfl
@[simp] theorem setQueue_eventStation (x : Side) (q : List PlainEntry) (s : State) : (setQueue x q s).eventStation = s.eventStation := by cases x <;> rfl
@[simp] theorem setQueue_eventRecord (x : Side) (q : List PlainEntry) (s : State) : (setQueue x q s).eventRecord = s.eventRecord := by cases x <;> rfl
@[simp] theorem setQueue_repeatTimer (x : Side) (q : List PlainEntry) (s : State) : (setQueue x q s).repeatTimer = s.repeatTimer := by cases x <;> rfl
@[simp] theorem setQueue_pending (x : Side) (q : List PlainEntry) (s : State) : (setQueue x q s).pending = s.pending := by cases x <;> rfl

/-! ## updateRecord -/

@[simp] theorem updateRecord_now (n : Nat) (f : Record → Record) (s : State) : (updateRecord n f s).now = s.now := rfl
@[simp] theorem updateRecord_held (n : Nat) (f : Record → Record) (s : State) : (updateRecord n f s).held = s.held := rfl
@[simp] theorem updateRecord_pins (n : Nat) (f : Record → Record) (s : State) : (updateRecord n f s).pins = s.pins := rfl
@[simp] theorem updateRecord_own (n : Nat) (f : Record → Record) (s : State) : (updateRecord n f s).own = s.own := rfl
@[simp] theorem updateRecord_rate (n : Nat) (f : Record → Record) (s : State) : (updateRecord n f s).rate = s.rate := rfl
@[simp] theorem updateRecord_portA (n : Nat) (f : Record → Record) (s : State) : (updateRecord n f s).portA = s.portA := rfl
@[simp] theorem updateRecord_portB (n : Nat) (f : Record → Record) (s : State) : (updateRecord n f s).portB = s.portB := rfl
@[simp] theorem updateRecord_stations (n : Nat) (f : Record → Record) (s : State) : (updateRecord n f s).stations = s.stations := rfl
@[simp] theorem updateRecord_nextTick (n : Nat) (f : Record → Record) (s : State) : (updateRecord n f s).nextTick = s.nextTick := rfl
@[simp] theorem updateRecord_free (n : Nat) (f : Record → Record) (s : State) : (updateRecord n f s).free = s.free := rfl
@[simp] theorem updateRecord_queueA (n : Nat) (f : Record → Record) (s : State) : (updateRecord n f s).queueA = s.queueA := rfl
@[simp] theorem updateRecord_queueB (n : Nat) (f : Record → Record) (s : State) : (updateRecord n f s).queueB = s.queueB := rfl
@[simp] theorem updateRecord_dups (n : Nat) (f : Record → Record) (s : State) : (updateRecord n f s).dups = s.dups := rfl
@[simp] theorem updateRecord_ownSeq (n : Nat) (f : Record → Record) (s : State) : (updateRecord n f s).ownSeq = s.ownSeq := rfl
@[simp] theorem updateRecord_groupsAB (n : Nat) (f : Record → Record) (s : State) : (updateRecord n f s).groupsAB = s.groupsAB := rfl
@[simp] theorem updateRecord_groupsBA (n : Nat) (f : Record → Record) (s : State) : (updateRecord n f s).groupsBA = s.groupsBA := rfl
@[simp] theorem updateRecord_params (n : Nat) (f : Record → Record) (s : State) : (updateRecord n f s).params = s.params := rfl
@[simp] theorem updateRecord_epoch (n : Nat) (f : Record → Record) (s : State) : (updateRecord n f s).epoch = s.epoch := rfl
@[simp] theorem updateRecord_session (n : Nat) (f : Record → Record) (s : State) : (updateRecord n f s).session = s.session := rfl
@[simp] theorem updateRecord_requests (n : Nat) (f : Record → Record) (s : State) : (updateRecord n f s).requests = s.requests := rfl
@[simp] theorem updateRecord_restart (n : Nat) (f : Record → Record) (s : State) : (updateRecord n f s).restart = s.restart := rfl
@[simp] theorem updateRecord_restartDue (n : Nat) (f : Record → Record) (s : State) : (updateRecord n f s).restartDue = s.restartDue := rfl
@[simp] theorem updateRecord_respClaim (n : Nat) (f : Record → Record) (s : State) : (updateRecord n f s).respClaim = s.respClaim := rfl
@[simp] theorem updateRecord_eventClaim (n : Nat) (f : Record → Record) (s : State) : (updateRecord n f s).eventClaim = s.eventClaim := rfl
@[simp] theorem updateRecord_claimsDue (n : Nat) (f : Record → Record) (s : State) : (updateRecord n f s).claimsDue = s.claimsDue := rfl
@[simp] theorem updateRecord_headDue (n : Nat) (f : Record → Record) (s : State) : (updateRecord n f s).headDue = s.headDue := rfl
@[simp] theorem updateRecord_counters (n : Nat) (f : Record → Record) (s : State) : (updateRecord n f s).counters = s.counters := rfl
@[simp] theorem updateRecord_latched (n : Nat) (f : Record → Record) (s : State) : (updateRecord n f s).latched = s.latched := rfl
@[simp] theorem updateRecord_mask (n : Nat) (f : Record → Record) (s : State) : (updateRecord n f s).mask = s.mask := rfl
@[simp] theorem updateRecord_reported (n : Nat) (f : Record → Record) (s : State) : (updateRecord n f s).reported = s.reported := rfl
@[simp] theorem updateRecord_eventStation (n : Nat) (f : Record → Record) (s : State) : (updateRecord n f s).eventStation = s.eventStation := rfl
@[simp] theorem updateRecord_eventRecord (n : Nat) (f : Record → Record) (s : State) : (updateRecord n f s).eventRecord = s.eventRecord := rfl
@[simp] theorem updateRecord_repeatTimer (n : Nat) (f : Record → Record) (s : State) : (updateRecord n f s).repeatTimer = s.repeatTimer := rfl
@[simp] theorem updateRecord_pending (n : Nat) (f : Record → Record) (s : State) : (updateRecord n f s).pending = s.pending := rfl

/-! ## removeRecord -/

@[simp] theorem removeRecord_now (n : Nat) (s : State) : (removeRecord n s).now = s.now := rfl
@[simp] theorem removeRecord_held (n : Nat) (s : State) : (removeRecord n s).held = s.held := rfl
@[simp] theorem removeRecord_pins (n : Nat) (s : State) : (removeRecord n s).pins = s.pins := rfl
@[simp] theorem removeRecord_own (n : Nat) (s : State) : (removeRecord n s).own = s.own := rfl
@[simp] theorem removeRecord_rate (n : Nat) (s : State) : (removeRecord n s).rate = s.rate := rfl
@[simp] theorem removeRecord_portA (n : Nat) (s : State) : (removeRecord n s).portA = s.portA := rfl
@[simp] theorem removeRecord_portB (n : Nat) (s : State) : (removeRecord n s).portB = s.portB := rfl
@[simp] theorem removeRecord_stations (n : Nat) (s : State) : (removeRecord n s).stations = s.stations := rfl
@[simp] theorem removeRecord_nextTick (n : Nat) (s : State) : (removeRecord n s).nextTick = s.nextTick := rfl
@[simp] theorem removeRecord_free (n : Nat) (s : State) : (removeRecord n s).free = s.free := rfl
@[simp] theorem removeRecord_queueA (n : Nat) (s : State) : (removeRecord n s).queueA = s.queueA := rfl
@[simp] theorem removeRecord_queueB (n : Nat) (s : State) : (removeRecord n s).queueB = s.queueB := rfl
@[simp] theorem removeRecord_dups (n : Nat) (s : State) : (removeRecord n s).dups = s.dups := rfl
@[simp] theorem removeRecord_ownSeq (n : Nat) (s : State) : (removeRecord n s).ownSeq = s.ownSeq := rfl
@[simp] theorem removeRecord_groupsAB (n : Nat) (s : State) : (removeRecord n s).groupsAB = s.groupsAB := rfl
@[simp] theorem removeRecord_groupsBA (n : Nat) (s : State) : (removeRecord n s).groupsBA = s.groupsBA := rfl
@[simp] theorem removeRecord_params (n : Nat) (s : State) : (removeRecord n s).params = s.params := rfl
@[simp] theorem removeRecord_epoch (n : Nat) (s : State) : (removeRecord n s).epoch = s.epoch := rfl
@[simp] theorem removeRecord_session (n : Nat) (s : State) : (removeRecord n s).session = s.session := rfl
@[simp] theorem removeRecord_requests (n : Nat) (s : State) : (removeRecord n s).requests = s.requests := rfl
@[simp] theorem removeRecord_restart (n : Nat) (s : State) : (removeRecord n s).restart = s.restart := rfl
@[simp] theorem removeRecord_restartDue (n : Nat) (s : State) : (removeRecord n s).restartDue = s.restartDue := rfl
@[simp] theorem removeRecord_respClaim (n : Nat) (s : State) : (removeRecord n s).respClaim = s.respClaim := rfl
@[simp] theorem removeRecord_eventClaim (n : Nat) (s : State) : (removeRecord n s).eventClaim = s.eventClaim := rfl
@[simp] theorem removeRecord_claimsDue (n : Nat) (s : State) : (removeRecord n s).claimsDue = s.claimsDue := rfl
@[simp] theorem removeRecord_headDue (n : Nat) (s : State) : (removeRecord n s).headDue = s.headDue := rfl
@[simp] theorem removeRecord_counters (n : Nat) (s : State) : (removeRecord n s).counters = s.counters := rfl
@[simp] theorem removeRecord_latched (n : Nat) (s : State) : (removeRecord n s).latched = s.latched := rfl
@[simp] theorem removeRecord_mask (n : Nat) (s : State) : (removeRecord n s).mask = s.mask := rfl
@[simp] theorem removeRecord_reported (n : Nat) (s : State) : (removeRecord n s).reported = s.reported := rfl
@[simp] theorem removeRecord_eventStation (n : Nat) (s : State) : (removeRecord n s).eventStation = s.eventStation := rfl
@[simp] theorem removeRecord_eventRecord (n : Nat) (s : State) : (removeRecord n s).eventRecord = s.eventRecord := rfl
@[simp] theorem removeRecord_repeatTimer (n : Nat) (s : State) : (removeRecord n s).repeatTimer = s.repeatTimer := rfl
@[simp] theorem removeRecord_pending (n : Nat) (s : State) : (removeRecord n s).pending = s.pending := rfl

/-! ## insertRecord -/

@[simp] theorem insertRecord_now (r : Record) (s : State) : (insertRecord r s).now = s.now := rfl
@[simp] theorem insertRecord_held (r : Record) (s : State) : (insertRecord r s).held = s.held := rfl
@[simp] theorem insertRecord_pins (r : Record) (s : State) : (insertRecord r s).pins = s.pins := rfl
@[simp] theorem insertRecord_own (r : Record) (s : State) : (insertRecord r s).own = s.own := rfl
@[simp] theorem insertRecord_rate (r : Record) (s : State) : (insertRecord r s).rate = s.rate := rfl
@[simp] theorem insertRecord_portA (r : Record) (s : State) : (insertRecord r s).portA = s.portA := rfl
@[simp] theorem insertRecord_portB (r : Record) (s : State) : (insertRecord r s).portB = s.portB := rfl
@[simp] theorem insertRecord_stations (r : Record) (s : State) : (insertRecord r s).stations = s.stations := rfl
@[simp] theorem insertRecord_nextTick (r : Record) (s : State) : (insertRecord r s).nextTick = s.nextTick := rfl
@[simp] theorem insertRecord_free (r : Record) (s : State) : (insertRecord r s).free = s.free := rfl
@[simp] theorem insertRecord_queueA (r : Record) (s : State) : (insertRecord r s).queueA = s.queueA := rfl
@[simp] theorem insertRecord_queueB (r : Record) (s : State) : (insertRecord r s).queueB = s.queueB := rfl
@[simp] theorem insertRecord_dups (r : Record) (s : State) : (insertRecord r s).dups = s.dups := rfl
@[simp] theorem insertRecord_ownSeq (r : Record) (s : State) : (insertRecord r s).ownSeq = s.ownSeq := rfl
@[simp] theorem insertRecord_groupsAB (r : Record) (s : State) : (insertRecord r s).groupsAB = s.groupsAB := rfl
@[simp] theorem insertRecord_groupsBA (r : Record) (s : State) : (insertRecord r s).groupsBA = s.groupsBA := rfl
@[simp] theorem insertRecord_params (r : Record) (s : State) : (insertRecord r s).params = s.params := rfl
@[simp] theorem insertRecord_epoch (r : Record) (s : State) : (insertRecord r s).epoch = s.epoch := rfl
@[simp] theorem insertRecord_session (r : Record) (s : State) : (insertRecord r s).session = s.session := rfl
@[simp] theorem insertRecord_requests (r : Record) (s : State) : (insertRecord r s).requests = s.requests := rfl
@[simp] theorem insertRecord_restart (r : Record) (s : State) : (insertRecord r s).restart = s.restart := rfl
@[simp] theorem insertRecord_restartDue (r : Record) (s : State) : (insertRecord r s).restartDue = s.restartDue := rfl
@[simp] theorem insertRecord_respClaim (r : Record) (s : State) : (insertRecord r s).respClaim = s.respClaim := rfl
@[simp] theorem insertRecord_eventClaim (r : Record) (s : State) : (insertRecord r s).eventClaim = s.eventClaim := rfl
@[simp] theorem insertRecord_claimsDue (r : Record) (s : State) : (insertRecord r s).claimsDue = s.claimsDue := rfl
@[simp] theorem insertRecord_headDue (r : Record) (s : State) : (insertRecord r s).headDue = s.headDue := rfl
@[simp] theorem insertRecord_counters (r : Record) (s : State) : (insertRecord r s).counters = s.counters := rfl
@[simp] theorem insertRecord_latched (r : Record) (s : State) : (insertRecord r s).latched = s.latched := rfl
@[simp] theorem insertRecord_mask (r : Record) (s : State) : (insertRecord r s).mask = s.mask := rfl
@[simp] theorem insertRecord_reported (r : Record) (s : State) : (insertRecord r s).reported = s.reported := rfl
@[simp] theorem insertRecord_eventStation (r : Record) (s : State) : (insertRecord r s).eventStation = s.eventStation := rfl
@[simp] theorem insertRecord_eventRecord (r : Record) (s : State) : (insertRecord r s).eventRecord = s.eventRecord := rfl
@[simp] theorem insertRecord_repeatTimer (r : Record) (s : State) : (insertRecord r s).repeatTimer = s.repeatTimer := rfl
@[simp] theorem insertRecord_pending (r : Record) (s : State) : (insertRecord r s).pending = s.pending := rfl

/-! ## putStation -/

@[simp] theorem putStation_now (e : StationEntry) (s : State) : (putStation e s).now = s.now := rfl
@[simp] theorem putStation_held (e : StationEntry) (s : State) : (putStation e s).held = s.held := rfl
@[simp] theorem putStation_pins (e : StationEntry) (s : State) : (putStation e s).pins = s.pins := rfl
@[simp] theorem putStation_own (e : StationEntry) (s : State) : (putStation e s).own = s.own := rfl
@[simp] theorem putStation_rate (e : StationEntry) (s : State) : (putStation e s).rate = s.rate := rfl
@[simp] theorem putStation_portA (e : StationEntry) (s : State) : (putStation e s).portA = s.portA := rfl
@[simp] theorem putStation_portB (e : StationEntry) (s : State) : (putStation e s).portB = s.portB := rfl
@[simp] theorem putStation_nextTick (e : StationEntry) (s : State) : (putStation e s).nextTick = s.nextTick := rfl
@[simp] theorem putStation_free (e : StationEntry) (s : State) : (putStation e s).free = s.free := rfl
@[simp] theorem putStation_queueA (e : StationEntry) (s : State) : (putStation e s).queueA = s.queueA := rfl
@[simp] theorem putStation_queueB (e : StationEntry) (s : State) : (putStation e s).queueB = s.queueB := rfl
@[simp] theorem putStation_dups (e : StationEntry) (s : State) : (putStation e s).dups = s.dups := rfl
@[simp] theorem putStation_records (e : StationEntry) (s : State) : (putStation e s).records = s.records := rfl
@[simp] theorem putStation_ownSeq (e : StationEntry) (s : State) : (putStation e s).ownSeq = s.ownSeq := rfl
@[simp] theorem putStation_groupsAB (e : StationEntry) (s : State) : (putStation e s).groupsAB = s.groupsAB := rfl
@[simp] theorem putStation_groupsBA (e : StationEntry) (s : State) : (putStation e s).groupsBA = s.groupsBA := rfl
@[simp] theorem putStation_params (e : StationEntry) (s : State) : (putStation e s).params = s.params := rfl
@[simp] theorem putStation_epoch (e : StationEntry) (s : State) : (putStation e s).epoch = s.epoch := rfl
@[simp] theorem putStation_session (e : StationEntry) (s : State) : (putStation e s).session = s.session := rfl
@[simp] theorem putStation_requests (e : StationEntry) (s : State) : (putStation e s).requests = s.requests := rfl
@[simp] theorem putStation_restart (e : StationEntry) (s : State) : (putStation e s).restart = s.restart := rfl
@[simp] theorem putStation_restartDue (e : StationEntry) (s : State) : (putStation e s).restartDue = s.restartDue := rfl
@[simp] theorem putStation_respClaim (e : StationEntry) (s : State) : (putStation e s).respClaim = s.respClaim := rfl
@[simp] theorem putStation_eventClaim (e : StationEntry) (s : State) : (putStation e s).eventClaim = s.eventClaim := rfl
@[simp] theorem putStation_claimsDue (e : StationEntry) (s : State) : (putStation e s).claimsDue = s.claimsDue := rfl
@[simp] theorem putStation_headDue (e : StationEntry) (s : State) : (putStation e s).headDue = s.headDue := rfl
@[simp] theorem putStation_counters (e : StationEntry) (s : State) : (putStation e s).counters = s.counters := rfl
@[simp] theorem putStation_latched (e : StationEntry) (s : State) : (putStation e s).latched = s.latched := rfl
@[simp] theorem putStation_mask (e : StationEntry) (s : State) : (putStation e s).mask = s.mask := rfl
@[simp] theorem putStation_reported (e : StationEntry) (s : State) : (putStation e s).reported = s.reported := rfl
@[simp] theorem putStation_eventStation (e : StationEntry) (s : State) : (putStation e s).eventStation = s.eventStation := rfl
@[simp] theorem putStation_eventRecord (e : StationEntry) (s : State) : (putStation e s).eventRecord = s.eventRecord := rfl
@[simp] theorem putStation_repeatTimer (e : StationEntry) (s : State) : (putStation e s).repeatTimer = s.repeatTimer := rfl
@[simp] theorem putStation_pending (e : StationEntry) (s : State) : (putStation e s).pending = s.pending := rfl

/-! ## putDup -/

@[simp] theorem putDup_now (e : DupEntry) (s : State) : (putDup e s).now = s.now := rfl
@[simp] theorem putDup_held (e : DupEntry) (s : State) : (putDup e s).held = s.held := rfl
@[simp] theorem putDup_pins (e : DupEntry) (s : State) : (putDup e s).pins = s.pins := rfl
@[simp] theorem putDup_own (e : DupEntry) (s : State) : (putDup e s).own = s.own := rfl
@[simp] theorem putDup_rate (e : DupEntry) (s : State) : (putDup e s).rate = s.rate := rfl
@[simp] theorem putDup_portA (e : DupEntry) (s : State) : (putDup e s).portA = s.portA := rfl
@[simp] theorem putDup_portB (e : DupEntry) (s : State) : (putDup e s).portB = s.portB := rfl
@[simp] theorem putDup_stations (e : DupEntry) (s : State) : (putDup e s).stations = s.stations := rfl
@[simp] theorem putDup_nextTick (e : DupEntry) (s : State) : (putDup e s).nextTick = s.nextTick := rfl
@[simp] theorem putDup_free (e : DupEntry) (s : State) : (putDup e s).free = s.free := rfl
@[simp] theorem putDup_queueA (e : DupEntry) (s : State) : (putDup e s).queueA = s.queueA := rfl
@[simp] theorem putDup_queueB (e : DupEntry) (s : State) : (putDup e s).queueB = s.queueB := rfl
@[simp] theorem putDup_records (e : DupEntry) (s : State) : (putDup e s).records = s.records := rfl
@[simp] theorem putDup_ownSeq (e : DupEntry) (s : State) : (putDup e s).ownSeq = s.ownSeq := rfl
@[simp] theorem putDup_groupsAB (e : DupEntry) (s : State) : (putDup e s).groupsAB = s.groupsAB := rfl
@[simp] theorem putDup_groupsBA (e : DupEntry) (s : State) : (putDup e s).groupsBA = s.groupsBA := rfl
@[simp] theorem putDup_params (e : DupEntry) (s : State) : (putDup e s).params = s.params := rfl
@[simp] theorem putDup_epoch (e : DupEntry) (s : State) : (putDup e s).epoch = s.epoch := rfl
@[simp] theorem putDup_session (e : DupEntry) (s : State) : (putDup e s).session = s.session := rfl
@[simp] theorem putDup_requests (e : DupEntry) (s : State) : (putDup e s).requests = s.requests := rfl
@[simp] theorem putDup_restart (e : DupEntry) (s : State) : (putDup e s).restart = s.restart := rfl
@[simp] theorem putDup_restartDue (e : DupEntry) (s : State) : (putDup e s).restartDue = s.restartDue := rfl
@[simp] theorem putDup_respClaim (e : DupEntry) (s : State) : (putDup e s).respClaim = s.respClaim := rfl
@[simp] theorem putDup_eventClaim (e : DupEntry) (s : State) : (putDup e s).eventClaim = s.eventClaim := rfl
@[simp] theorem putDup_claimsDue (e : DupEntry) (s : State) : (putDup e s).claimsDue = s.claimsDue := rfl
@[simp] theorem putDup_headDue (e : DupEntry) (s : State) : (putDup e s).headDue = s.headDue := rfl
@[simp] theorem putDup_counters (e : DupEntry) (s : State) : (putDup e s).counters = s.counters := rfl
@[simp] theorem putDup_latched (e : DupEntry) (s : State) : (putDup e s).latched = s.latched := rfl
@[simp] theorem putDup_mask (e : DupEntry) (s : State) : (putDup e s).mask = s.mask := rfl
@[simp] theorem putDup_reported (e : DupEntry) (s : State) : (putDup e s).reported = s.reported := rfl
@[simp] theorem putDup_eventStation (e : DupEntry) (s : State) : (putDup e s).eventStation = s.eventStation := rfl
@[simp] theorem putDup_eventRecord (e : DupEntry) (s : State) : (putDup e s).eventRecord = s.eventRecord := rfl
@[simp] theorem putDup_repeatTimer (e : DupEntry) (s : State) : (putDup e s).repeatTimer = s.repeatTimer := rfl
@[simp] theorem putDup_pending (e : DupEntry) (s : State) : (putDup e s).pending = s.pending := rfl

/-! ## removeDup -/

@[simp] theorem removeDup_now (n : Nat) (s : State) : (removeDup n s).now = s.now := rfl
@[simp] theorem removeDup_held (n : Nat) (s : State) : (removeDup n s).held = s.held := rfl
@[simp] theorem removeDup_pins (n : Nat) (s : State) : (removeDup n s).pins = s.pins := rfl
@[simp] theorem removeDup_own (n : Nat) (s : State) : (removeDup n s).own = s.own := rfl
@[simp] theorem removeDup_rate (n : Nat) (s : State) : (removeDup n s).rate = s.rate := rfl
@[simp] theorem removeDup_portA (n : Nat) (s : State) : (removeDup n s).portA = s.portA := rfl
@[simp] theorem removeDup_portB (n : Nat) (s : State) : (removeDup n s).portB = s.portB := rfl
@[simp] theorem removeDup_stations (n : Nat) (s : State) : (removeDup n s).stations = s.stations := rfl
@[simp] theorem removeDup_nextTick (n : Nat) (s : State) : (removeDup n s).nextTick = s.nextTick := rfl
@[simp] theorem removeDup_free (n : Nat) (s : State) : (removeDup n s).free = s.free := rfl
@[simp] theorem removeDup_queueA (n : Nat) (s : State) : (removeDup n s).queueA = s.queueA := rfl
@[simp] theorem removeDup_queueB (n : Nat) (s : State) : (removeDup n s).queueB = s.queueB := rfl
@[simp] theorem removeDup_records (n : Nat) (s : State) : (removeDup n s).records = s.records := rfl
@[simp] theorem removeDup_ownSeq (n : Nat) (s : State) : (removeDup n s).ownSeq = s.ownSeq := rfl
@[simp] theorem removeDup_groupsAB (n : Nat) (s : State) : (removeDup n s).groupsAB = s.groupsAB := rfl
@[simp] theorem removeDup_groupsBA (n : Nat) (s : State) : (removeDup n s).groupsBA = s.groupsBA := rfl
@[simp] theorem removeDup_params (n : Nat) (s : State) : (removeDup n s).params = s.params := rfl
@[simp] theorem removeDup_epoch (n : Nat) (s : State) : (removeDup n s).epoch = s.epoch := rfl
@[simp] theorem removeDup_session (n : Nat) (s : State) : (removeDup n s).session = s.session := rfl
@[simp] theorem removeDup_requests (n : Nat) (s : State) : (removeDup n s).requests = s.requests := rfl
@[simp] theorem removeDup_restart (n : Nat) (s : State) : (removeDup n s).restart = s.restart := rfl
@[simp] theorem removeDup_restartDue (n : Nat) (s : State) : (removeDup n s).restartDue = s.restartDue := rfl
@[simp] theorem removeDup_respClaim (n : Nat) (s : State) : (removeDup n s).respClaim = s.respClaim := rfl
@[simp] theorem removeDup_eventClaim (n : Nat) (s : State) : (removeDup n s).eventClaim = s.eventClaim := rfl
@[simp] theorem removeDup_claimsDue (n : Nat) (s : State) : (removeDup n s).claimsDue = s.claimsDue := rfl
@[simp] theorem removeDup_headDue (n : Nat) (s : State) : (removeDup n s).headDue = s.headDue := rfl
@[simp] theorem removeDup_counters (n : Nat) (s : State) : (removeDup n s).counters = s.counters := rfl
@[simp] theorem removeDup_latched (n : Nat) (s : State) : (removeDup n s).latched = s.latched := rfl
@[simp] theorem removeDup_mask (n : Nat) (s : State) : (removeDup n s).mask = s.mask := rfl
@[simp] theorem removeDup_reported (n : Nat) (s : State) : (removeDup n s).reported = s.reported := rfl
@[simp] theorem removeDup_eventStation (n : Nat) (s : State) : (removeDup n s).eventStation = s.eventStation := rfl
@[simp] theorem removeDup_eventRecord (n : Nat) (s : State) : (removeDup n s).eventRecord = s.eventRecord := rfl
@[simp] theorem removeDup_repeatTimer (n : Nat) (s : State) : (removeDup n s).repeatTimer = s.repeatTimer := rfl
@[simp] theorem removeDup_pending (n : Nat) (s : State) : (removeDup n s).pending = s.pending := rfl

/-! ## What each update changes -/

@[simp] theorem elapse_now (dt : Nat) (s : State) : (elapse dt s).now = s.now + dt := rfl
@[simp] theorem reach_now (m : Nat) (s : State) : (reach m s).now = max s.now m := rfl
@[simp] theorem latch_latched (e : Event) (s : State) : (latch e s).latched = s.latched ||| e.bit := rfl
@[simp] theorem claimCells_free (n : Nat) (s : State) : (claimCells n s).free = s.free - n := rfl
@[simp] theorem releaseCells_free (n : Nat) (s : State) : (releaseCells n s).free = s.free + n := rfl
@[simp] theorem releaseCells_claimsDue (n : Nat) (s : State) : (releaseCells n s).claimsDue = true := rfl
@[simp] theorem updateRecord_records (n : Nat) (f : Record → Record) (s : State) :
    (updateRecord n f s).records = s.records.map (fun r => if r.number = n then f r else r) := rfl
@[simp] theorem removeRecord_records (n : Nat) (s : State) :
    (removeRecord n s).records = s.records.filter (fun r => r.number != n) := rfl
@[simp] theorem insertRecord_records (r : Record) (s : State) :
    (insertRecord r s).records = insertBy Record.number r s.records := rfl
@[simp] theorem putStation_stations (e : StationEntry) (s : State) :
    (putStation e s).stations = insertBy StationEntry.station e s.stations := rfl
@[simp] theorem putDup_dups (e : DupEntry) (s : State) : (putDup e s).dups = insertBy DupEntry.source e s.dups := rfl
@[simp] theorem removeDup_dups (n : Nat) (s : State) :
    (removeDup n s).dups = s.dups.filter (fun e => e.source != n) := rfl

/-! ## Ports, queues and counters by side and name -/

@[simp] theorem port_setPort_self (x : Side) (p : Port) (s : State) : (setPort x p s).port x = p := by cases x <;> rfl
@[simp] theorem port_setPort_other (x : Side) (p : Port) (s : State) :
    (setPort x p s).port x.other = s.port x.other := by cases x <;> rfl
theorem port_setPort (x y : Side) (p : Port) (s : State) :
    (setPort x p s).port y = if y = x then p else s.port y := by cases x <;> cases y <;> rfl
@[simp] theorem queue_setQueue_self (x : Side) (q : List PlainEntry) (s : State) : (setQueue x q s).queue x = q := by
  cases x <;> rfl
@[simp] theorem queue_setQueue_other (x : Side) (q : List PlainEntry) (s : State) :
    (setQueue x q s).queue x.other = s.queue x.other := by cases x <;> rfl
theorem queue_setQueue (x y : Side) (q : List PlainEntry) (s : State) :
    (setQueue x q s).queue y = if y = x then q else s.queue y := by cases x <;> cases y <;> rfl
@[simp] theorem queue_setPort (x y : Side) (p : Port) (s : State) : (setPort x p s).queue y = s.queue y := by
  cases x <;> cases y <;> rfl
@[simp] theorem port_setQueue (x y : Side) (q : List PlainEntry) (s : State) : (setQueue x q s).port y = s.port y := by
  cases x <;> cases y <;> rfl

/-- A port is one of two fields, so an update that keeps both keeps it. -/
theorem port_congr {s t : State} (ha : t.portA = s.portA) (hb : t.portB = s.portB) (x : Side) : t.port x = s.port x := by
  cases x <;> assumption

/-- A plain queue is one of two fields, so an update that keeps both keeps it. -/
theorem queue_congr {s t : State} (ha : t.queueA = s.queueA) (hb : t.queueB = s.queueB) (x : Side) :
    t.queue x = s.queue x := by
  cases x <;> assumption

@[simp] theorem Side.other_other (x : Side) : x.other.other = x := by cases x <;> rfl
theorem Side.other_ne (x : Side) : x.other ≠ x := by cases x <;> decide

/-- Two counters have two indices (R187). -/
theorem Counter.index_inj (c d : Counter) (h : c.index = d.index) : c = d := by
  revert h
  rcases c with x | x | x | x | x | x | x | x | _ | _ | _ | _ | _ | _ | _ | _ | _ | _ <;>
    rcases d with y | y | y | y | y | y | y | y | _ | _ | _ | _ | _ | _ | _ | _ | _ | _ <;>
    (try cases x) <;> (try cases y) <;> decide

/-- Counting a counter changes that counter alone (R171). -/
theorem counter_countBy (c d : Counter) (n : Nat) (s : State) :
    (countBy c n s).counter d = if d = c then saturatingAdd (s.counter c) n else s.counter d := by
  by_cases h : d = c
  · subst h
    simp [State.counter, countBy]
  · have hi : c.index ≠ d.index := fun e => h (Counter.index_inj c d e).symm
    have hv : (c.index : Nat) ≠ d.index := fun e => hi (Fin.ext e)
    simp only [State.counter, countBy, if_neg h]
    exact Vector.getElem_set_ne _ _ hv

end Sys2Proof.Machine
end

