-- ==== Sys2Proof/Laws/Tables.lean ====
section
/-! SUPPORT. Tables kept in ascending order of a key: what putting, removing and changing an entry does. -/

namespace Sys2Proof.Machine

variable {α : Type} {key : α → Nat}

/-- The order of a table, read off its first two entries and its tail. -/
theorem ascending_cons_cons (a b : α) (l : List α) :
    ascending key (a :: b :: l) = true ↔ key a < key b ∧ ascending key (b :: l) = true := by
  simp [ascending]

/-- A table in order has its head below every other entry, and its tail in order. -/
theorem ascending_cons (a : α) (l : List α) :
    ascending key (a :: l) = true ↔ (∀ b ∈ l, key a < key b) ∧ ascending key l = true := by
  induction l generalizing a with
  | nil => simp [ascending]
  | cons b l ih =>
    rw [ascending_cons_cons]
    constructor
    · rintro ⟨hab, hb⟩
      refine ⟨fun c hc => ?_, hb⟩
      rcases List.mem_cons.mp hc with rfl | hc
      · exact hab
      · exact lt_trans hab (((ih b).mp hb).1 c hc)
    · rintro ⟨h, hb⟩
      exact ⟨h b (by simp), hb⟩

/-- The entries after `a` has been put: `a` and old ones. -/
theorem mem_insertBy {a b : α} {l : List α} (h : b ∈ insertBy key a l) : b = a ∨ b ∈ l := by
  induction l with
  | nil => simpa [insertBy] using h
  | cons c l ih =>
    simp only [insertBy] at h
    split at h
    · simpa using h
    · split at h
      · rcases List.mem_cons.mp h with h | h
        · exact .inl h
        · exact .inr (List.mem_cons_of_mem _ h)
      · rcases List.mem_cons.mp h with h | h
        · exact .inr (h ▸ List.mem_cons_self ..)
        · exact (ih h).imp id (List.mem_cons_of_mem _)

/-- What has been put is there. -/
theorem mem_insertBy_self (a : α) (l : List α) : a ∈ insertBy key a l := by
  induction l with
  | nil => simp [insertBy]
  | cons c l ih =>
    simp only [insertBy]
    split <;> [simp; split <;> simp [ih]]

/-- An old entry with another key stays. -/
theorem mem_insertBy_of_mem {a b : α} {l : List α} (h : b ∈ l) (hk : key b ≠ key a) : b ∈ insertBy key a l := by
  induction l with
  | nil => simp at h
  | cons c l ih =>
    simp only [insertBy]
    split
    · exact List.mem_cons_of_mem _ h
    · rename_i hlt
      split
      · rename_i heq
        rcases List.mem_cons.mp h with rfl | h
        · exact absurd heq.symm hk
        · exact List.mem_cons_of_mem _ h
      · rcases List.mem_cons.mp h with rfl | h
        · exact List.mem_cons_self ..
        · exact List.mem_cons_of_mem _ (ih h)

/-- Putting an entry keeps the order. -/
theorem ascending_insertBy (a : α) {l : List α} (h : ascending key l = true) :
    ascending key (insertBy key a l) = true := by
  induction l with
  | nil => simp [insertBy, ascending]
  | cons b l ih =>
    have hb := (ascending_cons b l).mp h
    simp only [insertBy]
    split
    · rename_i hlt
      exact (ascending_cons_cons ..).mpr ⟨hlt, h⟩
    · split
      · rename_i heq
        exact (ascending_cons ..).mpr ⟨fun c hc => heq ▸ hb.1 c hc, hb.2⟩
      · rename_i h1 h2
        refine (ascending_cons ..).mpr ⟨fun c hc => ?_, ih hb.2⟩
        rcases mem_insertBy hc with rfl | hc
        · omega
        · exact hb.1 c hc

/-- A part of a table in order is in order. -/
theorem ascending_filter (p : α → Bool) {l : List α} (h : ascending key l = true) :
    ascending key (l.filter p) = true := by
  induction l with
  | nil => rfl
  | cons a l ih =>
    have ha := (ascending_cons a l).mp h
    by_cases hp : p a = true
    · rw [List.filter_cons_of_pos hp]
      exact (ascending_cons ..).mpr ⟨fun b hb => ha.1 b (List.mem_of_mem_filter hb), ih ha.2⟩
    · rw [List.filter_cons_of_neg hp]
      exact ih ha.2

/-- Changing entries without their keys keeps the order. -/
theorem ascending_map (f : α → α) (hf : ∀ a, key (f a) = key a) {l : List α} (h : ascending key l = true) :
    ascending key (l.map f) = true := by
  induction l with
  | nil => rfl
  | cons a l ih =>
    have ha := (ascending_cons a l).mp h
    rw [List.map_cons]
    refine (ascending_cons ..).mpr ⟨fun b hb => ?_, ih ha.2⟩
    obtain ⟨c, hc, rfl⟩ := List.mem_map.mp hb
    rw [hf, hf]
    exact ha.1 c hc

/-- In a table in order one key has one entry. -/
theorem ascending_unique {l : List α} (h : ascending key l = true) {a b : α} (ha : a ∈ l) (hb : b ∈ l)
    (hk : key a = key b) : a = b := by
  induction l with
  | nil => simp at ha
  | cons c l ih =>
    have hc := (ascending_cons c l).mp h
    rcases List.mem_cons.mp ha with ea | ha' <;> rcases List.mem_cons.mp hb with eb | hb'
    · rw [ea, eb]
    · have := hc.1 b hb'
      subst ea
      omega
    · have := hc.1 a ha'
      subst eb
      omega
    · exact ih hc.2 ha' hb'

/-- Every entry of a table in order stands there once. -/
theorem nodup_of_ascending {l : List α} (h : ascending key l = true) : l.Nodup := by
  induction l with
  | nil => exact List.nodup_nil
  | cons a l ih =>
    obtain ⟨h1, h2⟩ := (ascending_cons a l).mp h
    exact List.nodup_cons.mpr ⟨fun hin => absurd (h1 a hin) (lt_irrefl _), ih h2⟩

/-- Putting an entry adds at most one place. -/
theorem length_insertBy_le (a : α) (l : List α) : (insertBy key a l).length ≤ l.length + 1 := by
  induction l with
  | nil => simp [insertBy]
  | cons b l ih =>
    simp only [insertBy]
    split <;> [simp; split <;> simp [ih]]

/-- Putting an entry whose key a table in order already holds adds no place. -/
theorem length_insertBy_of_mem (a : α) {b : α} {l : List α} (h : ascending key l = true) (hb : b ∈ l)
    (hk : key b = key a) : (insertBy key a l).length = l.length := by
  induction l with
  | nil => simp at hb
  | cons c l ih =>
    have hc := (ascending_cons c l).mp h
    simp only [insertBy]
    rcases List.mem_cons.mp hb with rfl | hb'
    · simp [hk]
    · have h1 : key c < key b := hc.1 b hb'
      have h2 : ¬ key a < key c := by omega
      have h3 : ¬ key a = key c := by omega
      simp [h2, h3, ih hc.2 hb']

/-- The sum over a table after an entry with a new key has been put. -/
theorem sumCells_insertBy (f : α → Nat) (a : α) {l : List α} (h : ∀ b ∈ l, key b ≠ key a) :
    sumCells f (insertBy key a l) = f a + sumCells f l := by
  induction l with
  | nil => simp [insertBy, sumCells]
  | cons b l ih =>
    have hb : key b ≠ key a := h b (by simp)
    have hl := ih fun c hc => h c (List.mem_cons_of_mem _ hc)
    simp only [sumCells] at hl ⊢
    simp only [insertBy]
    split
    · simp
    · rw [if_neg (fun e => hb e.symm)]
      simp only [List.map_cons, List.sum_cons]
      omega

end Sys2Proof.Machine
end

