-- ==== Sys2Proof/Laws/Ops.lean ====
section
/-! SUPPORT. What the shared operations over records, cells and ports can do, once each. -/

namespace Sys2Proof.Machine

/-! ## Records by number -/

/-- A record that is held under its number. -/
theorem record?_mem {s : State} {n : Nat} {r : Record} (h : s.record? n = some r) : r ∈ s.records ∧ r.number = n := by
  refine ⟨List.mem_of_find?_eq_some h, ?_⟩
  simpa using List.find?_some h

/-- With each descriptor used once, a record held is the record of its number. -/
theorem record?_of_mem {s : State} (h : s.numbered = true) {r : Record} (hr : r ∈ s.records) :
    s.record? r.number = some r := by
  have ha : ascending Record.number s.records = true := by
    simp only [State.numbered, Bool.and_eq_true] at h
    exact h.1
  cases hf : s.record? r.number with
  | none =>
    have := List.find?_eq_none.mp hf r hr
    simp at this
  | some q =>
    obtain ⟨hq, hn⟩ := record?_mem hf
    rw [ascending_unique ha hq hr hn]

/-- No record has a number that finds none. -/
theorem record?_none {s : State} {n : Nat} (h : s.record? n = none) : ∀ r ∈ s.records, r.number ≠ n := by
  intro r hr e
  have := List.find?_eq_none.mp h r hr
  simp [e] at this

/-- A numbered state in its parts. -/
theorem numbered_iff (s : State) :
    s.numbered = true ↔ ascending Record.number s.records = true ∧ ∀ r ∈ s.records, r.number < 64 := by
  simp [State.numbered]

/-- Changing a record by number keeps the numbers. -/
theorem numbered_updateRecord {s : State} (n : Nat) (f : Record → Record) (hf : ∀ r, r.number = n → (f r).number = n)
    (h : s.numbered = true) : (updateRecord n f s).numbered = true := by
  have hg : ∀ r : Record, (if r.number = n then f r else r).number = r.number := by
    intro r
    split
    · rename_i e
      rw [hf r e, e]
    · rfl
  rw [numbered_iff] at h ⊢
  refine ⟨ascending_map _ hg h.1, fun r hr => ?_⟩
  obtain ⟨q, hq, rfl⟩ := List.mem_map.mp hr
  rw [hg]
  exact h.2 q hq

/-- The record of a number after a change by number. -/
theorem record?_updateRecord (s : State) (n m : Nat) (f : Record → Record)
    (hf : ∀ r, r.number = n → (f r).number = n) :
    (updateRecord n f s).record? m = if m = n then (s.record? n).map f else s.record? m := by
  simp only [State.record?, updateRecord_records]
  induction s.records with
  | nil => simp
  | cons r l ih =>
    by_cases hr : r.number = n
    · by_cases hm : m = n
      · subst hm
        simp [hr, hf r hr]
      · have h1 : ¬ n = m := fun e => hm e.symm
        have h2 : ¬ (f r).number = m := by rw [hf r hr]; exact h1
        have h3 : ¬ r.number = m := by rw [hr]; exact h1
        rw [if_neg hm] at ih ⊢
        simp [List.map_cons, hr, h1, h2, ih]
    · by_cases hm : m = n
      · subst hm
        rw [if_pos rfl] at ih ⊢
        simp [List.map_cons, hr, ih]
      · rw [if_neg hm] at ih ⊢
        simp only [List.map_cons, if_neg hr, List.find?_cons]
        split
        · rfl
        · exact ih

/-- Freeing a descriptor keeps the numbers. -/
theorem numbered_removeRecord {s : State} (n : Nat) (h : s.numbered = true) : (removeRecord n s).numbered = true := by
  rw [numbered_iff] at h ⊢
  exact ⟨ascending_filter _ h.1, fun r hr => h.2 r (List.mem_of_mem_filter hr)⟩

/-- A record in a descriptor below 64 keeps the numbers. -/
theorem numbered_insertRecord {s : State} (r : Record) (hr : r.number < 64) (h : s.numbered = true) :
    (insertRecord r s).numbered = true := by
  rw [numbered_iff] at h ⊢
  refine ⟨ascending_insertBy _ h.1, fun q hq => ?_⟩
  rcases mem_insertBy hq with rfl | hq
  · exact hr
  · exact h.2 q hq

/-- With a descriptor free, the lowest free one is a descriptor that no record holds (R106). -/
theorem lowestFree_spec {s : State} (h : 1 ≤ s.freeDescriptors) :
    s.lowestFree < 64 ∧ ∀ r ∈ s.records, r.number ≠ s.lowestFree := by
  have hlen : s.records.length < 64 := by
    simp only [State.freeDescriptors, Config.descriptors] at h
    omega
  cases hf : (List.range Config.descriptors).find? (fun n => s.records.all (fun r => r.number != n)) with
  | none =>
    exfalso
    have hall := List.find?_eq_none.mp hf
    have hsub : List.range 64 ⊆ s.records.map Record.number := by
      intro n hn
      have hn' := hall n hn
      simp only [Bool.not_eq_true, List.all_eq_false] at hn'
      obtain ⟨r, hr, hrn⟩ := hn'
      exact List.mem_map.mpr ⟨r, hr, by simpa using hrn⟩
    have := (List.nodup_range.subperm hsub).length_le
    simp at this
    omega
  | some n =>
    have hlow : s.lowestFree = n := by simp [State.lowestFree, hf]
    have hmem := List.mem_of_find?_eq_some hf
    have hall := List.find?_some hf
    rw [hlow]
    refine ⟨by simpa [Config.descriptors] using List.mem_range.mp hmem, fun r hr => ?_⟩
    have := List.all_eq_true.mp hall r hr
    simpa using this

/-- The record of a number after a new record has taken a free descriptor. -/
theorem record?_insertRecord {s : State} (h : s.numbered = true) (r : Record) (hr : r.number < 64)
    (hfree : ∀ q ∈ s.records, q.number ≠ r.number) (m : Nat) :
    (insertRecord r s).record? m = if m = r.number then some r else s.record? m := by
  have hn := numbered_insertRecord r hr h
  by_cases hm : m = r.number
  · subst hm
    rw [if_pos rfl]
    exact record?_of_mem hn (mem_insertBy_self r s.records)
  · rw [if_neg hm]
    cases hs : s.record? m with
    | some q =>
      obtain ⟨hq, rfl⟩ := record?_mem hs
      exact record?_of_mem hn (mem_insertBy_of_mem hq (hfree q hq))
    | none =>
      refine List.find?_eq_none.mpr fun q hq => ?_
      rcases mem_insertBy hq with rfl | hq
      · simpa using fun e => hm e.symm
      · simpa using record?_none hs q hq

/-- The record of a number after a descriptor has been freed. -/
theorem record?_removeRecord {s : State} (h : s.numbered = true) (n m : Nat) :
    (removeRecord n s).record? m = if m = n then none else s.record? m := by
  have hn := numbered_removeRecord n h
  by_cases hm : m = n
  · subst hm
    rw [if_pos rfl]
    refine List.find?_eq_none.mpr fun q hq => ?_
    simpa using List.of_mem_filter hq
  · rw [if_neg hm]
    cases hs : s.record? m with
    | some q =>
      obtain ⟨hq, rfl⟩ := record?_mem hs
      exact record?_of_mem hn (List.mem_filter.mpr ⟨hq, by simpa using hm⟩)
    | none =>
      refine List.find?_eq_none.mpr fun q hq => ?_
      simpa using record?_none hs q (List.mem_of_mem_filter hq)

/-- A new stamp is newer than every stamp held (R108). -/
theorem newStamp_spec {s : State} {r : Record} (h : r ∈ s.records) : r.stamp < s.newStamp := by
  unfold State.newStamp
  generalize s.records = l at h
  induction l with
  | nil => simp at h
  | cons a l ih =>
    simp only [List.foldr_cons]
    rcases List.mem_cons.mp h with rfl | h
    · omega
    · have := ih h
      omega

/-! ## The cell pool -/

/-- A claim that leaves the free count on one side of LOW_MARK latches nothing (R81). -/
theorem claimCells_latched (n : Nat) (s : State) :
    (claimCells n s).latched =
      if s.params.lowMark ≤ s.free ∧ s.free - n < s.params.lowMark then s.latched ||| Event.cellsLow.bit else s.latched :=
  rfl

/-! ## The arbiter -/

/-- The candidate is an eligible record of the side (R112). -/
theorem oldest_mem {l : List Record} {r : Record} (h : oldest l = some r) : r ∈ l := by
  induction l generalizing r with
  | nil => simp [oldest] at h
  | cons a l ih =>
    simp only [oldest] at h
    cases ho : oldest l with
    | none =>
      rw [ho] at h
      simp only [Option.some.injEq] at h
      simp [h]
    | some q =>
      rw [ho] at h
      simp only at h
      split at h <;> simp only [Option.some.injEq] at h <;> subst h
      · exact List.mem_cons_of_mem _ (ih ho)
      · simp

/-- The oldest of several records is at least as old as each of them. -/
theorem oldest_le {l : List Record} {r q : Record} (h : oldest l = some r) (hq : q ∈ l) : r.stamp ≤ q.stamp := by
  induction l generalizing r with
  | nil => simp at hq
  | cons a l ih =>
    simp only [oldest] at h
    cases ho : oldest l with
    | none =>
      rw [ho] at h
      simp only [Option.some.injEq] at h
      subst h
      rcases List.mem_cons.mp hq with e | hq'
      · rw [e]
      · exfalso
        cases l with
        | nil => simp at hq'
        | cons b m =>
          simp only [oldest] at ho
          cases hm : oldest m <;> rw [hm] at ho <;> simp only at ho
          · exact absurd ho (by simp)
          · split at ho <;> exact absurd ho (by simp)
    | some p =>
      rw [ho] at h
      simp only at h
      rcases List.mem_cons.mp hq with e | hq'
      · subst e
        split at h <;> simp only [Option.some.injEq] at h <;> subst h
        · omega
        · exact le_refl _
      · have := ih ho hq'
        split at h <;> simp only [Option.some.injEq] at h <;> subst h <;> omega

/-- The candidate of a side is held, has that out side and is eligible. -/
theorem candidate_spec {s : State} {x : Side} {r : Record} (h : s.candidate x = some r) :
    r ∈ s.records ∧ r.outSide = x ∧ s.eligible r = true := by
  have hm := oldest_mem h
  simp only [List.mem_filter, Bool.and_eq_true, beq_iff_eq] at hm
  exact ⟨hm.1, hm.2.1, hm.2.2⟩

/-- An eligible record is QUEUED, and none that is older has its out side and destination (R111). -/
theorem eligible_spec {s : State} {r : Record} (h : s.eligible r = true) :
    r.state = .queued ∧ ∀ q ∈ s.records, q.outSide = r.outSide → q.destination = r.destination → r.stamp ≤ q.stamp := by
  simp only [State.eligible, Bool.and_eq_true, beq_iff_eq, List.all_eq_true] at h
  refine ⟨h.1, fun q hq ho hd => ?_⟩
  have := h.2 q hq
  simp only [ho, hd, beq_self_eq_true, Bool.true_and, Bool.not_eq_true', decide_eq_false_iff_not] at this
  omega

/-- All the arbiter can do (R26, R27): nothing, or take the candidate, or take the plain head, the last two from IDLE. -/
theorem arbitrate_cases (x : Side) (s : State) :
    arbitrate x s = s
      ∨ ((s.port x).state = .idle ∧ ∃ r, s.candidate x = some r ∧ arbitrate x s = chooseRecord x r s)
      ∨ ((s.port x).state = .idle ∧ s.queue x ≠ [] ∧ arbitrate x s = choosePlain x s) := by
  by_cases hi : (s.port x).state = .idle
  · cases hc : s.candidate x with
    | none =>
      cases hq : s.queue x with
      | nil => left; simp [arbitrate, hi, hc, hq]
      | cons e l => right; right; simp [arbitrate, hi, hc, hq]
    | some r =>
      cases hq : s.queue x with
      | nil => right; left; simp [arbitrate, hi, hc, hq]
      | cons e l =>
        by_cases hl : (s.port x).lastClass = .confirmed
        · right; right; simp [arbitrate, hi, hc, hq, hl]
        · right; left; simp [arbitrate, hi, hc, hq, hl]
  · left; simp [arbitrate, hi]

/-- The arbiter of one side leaves the other port. -/
theorem arbitrate_other (x : Side) (s : State) : (arbitrate x s).port x.other = s.port x.other := by
  rcases arbitrate_cases x s with h | ⟨-, r, -, h⟩ | ⟨-, -, h⟩ <;> rw [h]
  · rw [chooseRecord, port_congr (updateRecord_portA ..) (updateRecord_portB ..)]
    simp
  · simp [choosePlain]

/-- A port that is not IDLE keeps what it holds. -/
theorem arbitrate_not_idle {x : Side} {s : State} (h : (s.port x).state ≠ .idle) : arbitrate x s = s := by
  simp [arbitrate, h]

/-- What the arbiter never touches. -/
theorem arbitrate_keeps (x : Side) (s : State) :
    KeepsAtEnd s (arbitrate x s) ∧ (arbitrate x s).now = s.now ∧ (arbitrate x s).free = s.free
      ∧ (arbitrate x s).ownSeq = s.ownSeq ∧ (arbitrate x s).latched = s.latched
      ∧ (arbitrate x s).eventRecord = s.eventRecord ∧ (arbitrate x s).repeatTimer = s.repeatTimer
      ∧ (arbitrate x s).restartDue = s.restartDue ∧ (arbitrate x s).respClaim = s.respClaim
      ∧ (arbitrate x s).eventClaim = s.eventClaim ∧ (arbitrate x s).claimsDue = s.claimsDue
      ∧ (arbitrate x s).headDue = s.headDue := by
  rcases arbitrate_cases x s with h | ⟨-, r, -, h⟩ | ⟨-, -, h⟩ <;> rw [h] <;>
    simp [KeepsAtEnd, KeepsConfig, KeepsTables, KeepsPlainQueues, KeepsManagement, KeepsRest, chooseRecord, choosePlain]

/-- The arbiter keeps the numbers. -/
theorem numbered_arbitrate {s : State} (x : Side) (h : s.numbered = true) : (arbitrate x s).numbered = true := by
  rcases arbitrate_cases x s with e | ⟨-, r, -, e⟩ | ⟨-, -, e⟩ <;> rw [e]
  · exact h
  · refine numbered_updateRecord _ _ (fun q hq => hq) ?_
    simpa [State.numbered] using h
  · simpa [State.numbered, choosePlain] using h

/-- The arbiter keeps how many records are held. -/
theorem length_records_arbitrate (x : Side) (s : State) : (arbitrate x s).records.length = s.records.length := by
  rcases arbitrate_cases x s with e | ⟨-, r, -, e⟩ | ⟨-, -, e⟩ <;> rw [e] <;> simp [chooseRecord, choosePlain]

/-- A record held stays held through the arbiter, which may only make it SENDING (R113). -/
theorem holds_arbitrate {s : State} (x : Side) (hn : s.numbered = true) {n : Nat} {r : Record} (h : Holds s n r) :
    Holds (arbitrate x s) n r := by
  rcases arbitrate_cases x s with e | ⟨-, c, hc, e⟩ | ⟨-, -, e⟩ <;> rw [e]
  · exact h
  · obtain ⟨q, hq, hqr, hst⟩ := h
    obtain ⟨hcm, -, hel⟩ := candidate_spec hc
    have hcn := record?_of_mem hn hcm
    have hlook : (chooseRecord x c s).record? n =
        if n = c.number then (s.record? c.number).map (fun q => { q with state := .sending }) else s.record? n := by
      rw [chooseRecord, record?_updateRecord _ _ _ (fun q => { q with state := .sending }) (fun _ h => h)]
      simp [State.record?]
    by_cases hnc : n = c.number
    · subst hnc
      have hqc : q = c := by rw [hcn] at hq; exact (Option.some.inj hq).symm
      subst hqc
      refine ⟨{ q with state := .sending }, ?_, ?_, ?_⟩
      · rw [hlook, if_pos rfl, hcn]
        rfl
      · exact hqr
      · rcases hst with h1 | ⟨h1, h2⟩
        · right
          exact ⟨h1 ▸ (eligible_spec hel).1, rfl⟩
        · exact .inr ⟨h1, rfl⟩
    · refine ⟨q, ?_, hqr, hst⟩
      rw [hlook, if_neg hnc]
      exact hq
  · obtain ⟨q, hq, hqr, hst⟩ := h
    exact ⟨q, by simpa [State.record?, choosePlain] using hq, hqr, hst⟩

end Sys2Proof.Machine
end

