-- ==== Sys2Proof/Laws/Delivery.lean ====
section
/-! SUPPORT. What the operations of the Delivery Engine can do, once each: how a record ends, the outcomes of an attempt,
a withdrawal and a sweep of withdrawals. -/

namespace Sys2Proof.Machine

/-- What the end of a record never touches: everything but the records and their cells, the counters, the latched events,
the Event Unit's account of its record and the flags of log 3. -/
structure KeepsAtRecordEnd (s t : State) : Prop where
  config : KeepsConfig s t
  tables : KeepsTables s t
  queues : KeepsPlainQueues s t
  management : KeepsManagement s t
  rest : KeepsRest s t
  now : t.now = s.now
  portA : t.portA = s.portA
  portB : t.portB = s.portB
  mask : t.mask = s.mask
  eventStation : t.eventStation = s.eventStation
  respClaim : t.respClaim = s.respClaim
  eventClaim : t.eventClaim = s.eventClaim
  headDue : t.headDue = s.headDue

/-- Being told that a response has ended changes one flag of log 3 alone. -/
theorem tellResponseEnd_spec (n : Nat) (s : State) :
    ∃ d, tellResponseEnd n s = { s with restartDue := d } ∧ (s.restartDue = true → d = true) := by
  unfold tellResponseEnd
  split
  · split
    · exact ⟨true, rfl, fun _ => rfl⟩
    · exact ⟨s.restartDue, rfl, id⟩
  · exact ⟨s.restartDue, rfl, id⟩

/-- Being told of the end of its record changes the Event Unit's reported set, its record and its timer alone (R176). -/
theorem tellEventEnd_spec (delivered : Bool) (s : State) :
    ∃ rep rec timer, tellEventEnd delivered s = { s with reported := rep, eventRecord := rec, repeatTimer := timer }
      ∧ (∀ f, s.eventRecord = some f → rec = none ∧ rep = if delivered then f.sent else s.reported)
      ∧ (s.eventRecord = none → rec = none ∧ rep = s.reported ∧ timer = s.repeatTimer) := by
  unfold tellEventEnd
  split
  · rename_i f h
    refine ⟨_, _, _, rfl, fun g hg => ?_, fun hn => ?_⟩
    · rw [h] at hg
      simp_all
    · simp [h] at hn
  · rename_i h
    exact ⟨s.reported, s.eventRecord, s.repeatTimer, rfl, by simp [h], fun hn => ⟨hn, rfl, rfl⟩⟩

/-- A NOTICE conversion leaves the rest of the part as it was (R124). -/
theorem convertToNotice_keeps (r : Record) (why : EndReason) (s : State) :
    KeepsAtRecordEnd s (convertToNotice r why s) := by
  unfold convertToNotice releaseFurtherCells
  split <;> constructor <;>
    simp [KeepsConfig, KeepsTables, KeepsPlainQueues, KeepsManagement, KeepsRest]

/-- A RELAY record's failure leaves the rest of the part as it was (R126). -/
theorem failRelay_keeps (r : Record) (role : Role) (s : State) : KeepsAtRecordEnd s (failRelay r role s) := by
  unfold failRelay releaseRecord
  cases role with
  | response =>
    obtain ⟨d, h, -⟩ := tellResponseEnd_spec r.number
      (latch .responseLost (count .responsesLost (releaseCells r.cells (removeRecord r.number s))))
    simp only [h]
    constructor <;> simp [KeepsConfig, KeepsTables, KeepsPlainQueues, KeepsManagement, KeepsRest]
  | notice => constructor <;> simp [KeepsConfig, KeepsTables, KeepsPlainQueues, KeepsManagement, KeepsRest]
  | event =>
    obtain ⟨a, b, c, h, -⟩ := tellEventEnd_spec false (releaseCells r.cells (removeRecord r.number s))
    simp only [h]
    constructor <;> simp [KeepsConfig, KeepsTables, KeepsPlainQueues, KeepsManagement, KeepsRest]

/-- However a record ends undelivered, the rest of the part stays (R123). -/
theorem endUndelivered_keeps (r : Record) (why : EndReason) (s : State) :
    KeepsAtRecordEnd s (endUndelivered r why s) := by
  unfold endUndelivered
  split
  · exact convertToNotice_keeps r why s
  · exact failRelay_keeps r _ s

/-- A delivery leaves the rest of the part as it was (R114, R126). -/
theorem deliver_keeps (r : Record) (s : State) : KeepsAtRecordEnd s (deliver r s) := by
  unfold deliver releaseRecord
  split
  · constructor <;> simp [KeepsConfig, KeepsTables, KeepsPlainQueues, KeepsManagement, KeepsRest]
  · obtain ⟨d, h, -⟩ := tellResponseEnd_spec r.number (releaseCells r.cells (removeRecord r.number s))
    simp only [h]
    constructor <;> simp [KeepsConfig, KeepsTables, KeepsPlainQueues, KeepsManagement, KeepsRest]
  · constructor <;> simp [KeepsConfig, KeepsTables, KeepsPlainQueues, KeepsManagement, KeepsRest]
  · obtain ⟨a, b, c, h, -⟩ := tellEventEnd_spec true (releaseCells r.cells (removeRecord r.number s))
    simp only [h]
    constructor <;> simp [KeepsConfig, KeepsTables, KeepsPlainQueues, KeepsManagement, KeepsRest]

/-- The records after a failed RELAY record's end: all but it (R126). -/
theorem failRelay_records (r : Record) (role : Role) (s : State) :
    (failRelay r role s).records = (removeRecord r.number s).records := by
  unfold failRelay releaseRecord
  cases role with
  | response =>
    obtain ⟨d, h, -⟩ := tellResponseEnd_spec r.number
      (latch .responseLost (count .responsesLost (releaseCells r.cells (removeRecord r.number s))))
    simp only [h]
    simp
  | notice => simp
  | event =>
    obtain ⟨a, b, c, h, -⟩ := tellEventEnd_spec false (releaseCells r.cells (removeRecord r.number s))
    simp only [h]
    simp

/-- The records after a delivery: all but the one delivered (R114). -/
theorem deliver_records (r : Record) (s : State) : (deliver r s).records = (removeRecord r.number s).records := by
  unfold deliver releaseRecord
  split
  · simp
  · obtain ⟨d, h, -⟩ := tellResponseEnd_spec r.number (releaseCells r.cells (removeRecord r.number s))
    simp only [h]
    simp
  · simp
  · obtain ⟨a, b, c, h, -⟩ := tellEventEnd_spec true (releaseCells r.cells (removeRecord r.number s))
    simp only [h]
    simp

/-- The records after a NOTICE conversion: the failed record has become the NOTICE (R124). -/
theorem convertToNotice_records (r : Record) (why : EndReason) (s : State) :
    (convertToNotice r why s).records = (updateRecord r.number (fun _ => noticeRecord r why s) s).records := by
  unfold convertToNotice releaseFurtherCells
  split <;> simp

/-- Records that end keep the numbers of the others. -/
theorem numbered_endUndelivered (r : Record) (why : EndReason) {s : State} (h : s.numbered = true) :
    (endUndelivered r why s).numbered = true := by
  unfold endUndelivered
  split
  · have := numbered_updateRecord r.number (fun _ => noticeRecord r why s) (fun _ _ => rfl) h
    simpa only [State.numbered, convertToNotice_records] using this
  · have := numbered_removeRecord r.number h
    simpa only [State.numbered, failRelay_records] using this

/-- A delivery keeps the numbers of the other records. -/
theorem numbered_deliver (r : Record) {s : State} (h : s.numbered = true) : (deliver r s).numbered = true := by
  have := numbered_removeRecord r.number h
  simpa only [State.numbered, deliver_records] using this

/-- A record that ends leaves every other record under its number (R123). -/
theorem record?_endUndelivered_other (r : Record) (why : EndReason) {s : State} (h : s.numbered = true) {n : Nat}
    (hn : n ≠ r.number) : (endUndelivered r why s).record? n = s.record? n := by
  unfold endUndelivered
  split
  · have := record?_updateRecord s r.number n (fun _ => noticeRecord r why s) (fun _ _ => rfl)
    rw [if_neg hn] at this
    simpa only [State.record?, convertToNotice_records] using this
  · have := record?_removeRecord h r.number n
    rw [if_neg hn] at this
    simpa only [State.record?, failRelay_records] using this

/-- All that an attempt's end can do to its record (R115 to R118, R122): it waits, or ends undelivered. -/
theorem outcomeFailed_cases (r : Record) (why : EndReason) (s : State) :
    (∃ why', outcomeFailed r why s = endUndelivered { r with attempts := r.attempts + 1 } why' s)
      ∨ outcomeFailed r why s = holdRecord { r with attempts := r.attempts + 1 } s.params.retryInterval s := by
  unfold outcomeFailed
  split
  · exact .inl ⟨_, rfl⟩
  · dsimp only
    split
    · exact .inl ⟨_, rfl⟩
    · exact .inr rfl

/-- All that a BUSY can do to its record (R115, R122). -/
theorem outcomeBusy_cases (r : Record) (s : State) :
    (∃ why, outcomeBusy r s = endUndelivered { r with busyCount := r.busyCount + 1 } why s)
      ∨ outcomeBusy r s = holdRecord { r with busyCount := r.busyCount + 1 } s.params.busyHold s := by
  unfold outcomeBusy
  split
  · exact .inl ⟨_, rfl⟩
  · dsimp only
    split
    · exact .inl ⟨_, rfl⟩
    · exact .inr rfl

/-- Dropping a choice changes one port alone (R32). -/
theorem dropRecordChoice_cases (r : Record) (s : State) :
    dropRecordChoice r s = s
      ∨ ((s.port r.outSide).choice = some (.record r.number)
        ∧ dropRecordChoice r s = setPort r.outSide (s.port r.outSide).dropChoice s) := by
  unfold dropRecordChoice
  split
  · exact .inr ⟨by assumption, rfl⟩
  · exact .inl rfl

/-- All that a withdrawal cause can do to a record (R121). -/
theorem withdraw_cases (r : Record) (cause : Mark) (s : State) :
    (s.withdrawal r = .kept ∧ withdraw r cause s = s)
      ∨ (s.withdrawal r = .marked ∧ withdraw r cause s = updateRecord r.number (fun q => { q with mark := some cause }) s)
      ∨ (s.withdrawal r = .atOnce ∧ withdraw r cause s = endUndelivered r cause.reason (dropRecordChoice r s)) := by
  unfold withdraw
  cases h : s.withdrawal r
  · exact .inr (.inr ⟨rfl, rfl⟩)
  · exact .inr (.inl ⟨rfl, rfl⟩)
  · exact .inl ⟨rfl, rfl⟩

/-- A withdrawal keeps the numbers of the records. -/
theorem numbered_withdraw (r : Record) (cause : Mark) {s : State} (h : s.numbered = true) :
    (withdraw r cause s).numbered = true := by
  rcases withdraw_cases r cause s with ⟨-, e⟩ | ⟨-, e⟩ | ⟨-, e⟩ <;> rw [e]
  · exact h
  · exact numbered_updateRecord _ _ (fun _ hq => hq) h
  · refine numbered_endUndelivered _ _ ?_
    rcases dropRecordChoice_cases r s with e | ⟨-, e⟩ <;> rw [e]
    · exact h
    · simpa [State.numbered] using h

/-- A property that one withdrawal keeps, a sweep keeps. -/
theorem withdrawAll_induction {P : State → Prop} (cause : Mark) (rs : List Record)
    (hstep : ∀ r s, P s → P (withdraw r cause s)) {s : State} (h : P s) : P (withdrawAll cause rs s) := by
  induction rs generalizing s with
  | nil => exact h
  | cons r rs ih => exact ih (hstep r s h)

end Sys2Proof.Machine
end

