-- ==== Sys2Proof/Laws/Requests.lean ====
section
/-! SUPPORT. The steps that follow at once from another step, and the end of a step: what each can do, once. -/

namespace Sys2Proof.Machine

/-! ## Settled states -/

/-- With nothing due, nothing happens first. -/
theorem settle_of_not_due {s : State} (h : s.due = none) : settle s = s := by
  simp [settle, State.dueBound, takeDue, h]

/-- A relay held in reset has nothing due. -/
theorem not_due_of_held {s : State} (h : s.held = true) : s.due = none := by simp [State.due, h]

/-- A relay that is ready runs and has nothing due. -/
theorem ready_iff (s : State) : s.ready = true ↔ s.held = false ∧ s.due = none := by
  simp [State.ready]

/-- A ready state is settled. -/
theorem settle_of_ready {s : State} (h : s.ready = true) : settle s = s :=
  settle_of_not_due ((ready_iff s).mp h).2

/-- A due step that is wanted is carried out, and no other. -/
theorem carryOutWanted_due {s : State} {d : Due} {wanted : State → Due → Bool} (h : s.due = some d)
    (hw : wanted s d = true) : carryOutWanted wanted s = carryOutDue d s := by
  simp [carryOutWanted, State.dueBound, takeDue, h, hw]

/-- With nothing due, a step that grants or executes does nothing. -/
theorem carryOutWanted_of_not_due {s : State} (wanted : State → Due → Bool) (h : s.due = none) :
    carryOutWanted wanted s = s := by
  simp [carryOutWanted, State.dueBound, takeDue, h]

/-- A step of a line or a pin from a ready state is its effect after the time that passed. -/
theorem fromOutside_ready {s : State} (h : s.ready = true) (dt : Nat) (effect : State → State) :
    fromOutside dt effect s = .next (effect (elapse dt s)) := by
  simp [fromOutside, settle_of_ready h, ((ready_iff s).mp h).1]

/-- A timer's step from a ready state is its effect. -/
theorem fromTimer_ready {s : State} (h : s.ready = true) (effect : State → State) :
    fromTimer effect s = .next (effect s) := by
  simp [fromTimer, settle_of_ready h, ((ready_iff s).mp h).1]

/-! ## The arbiters -/

/-- A record without its state. -/
def Record.bare (r : Record) : Record := { r with state := .queued }

/-- Taking a choice changes no record but in its state. -/
theorem arbitrate_bare (x : Side) (s : State) :
    (arbitrate x s).records.map Record.bare = s.records.map Record.bare := by
  rcases arbitrate_cases x s with e | ⟨-, r, -, e⟩ | ⟨-, -, e⟩ <;> rw [e]
  · simp only [chooseRecord, updateRecord_records, setPort_records, List.map_map]
    refine List.map_congr_left fun q _ => ?_
    simp only [Function.comp]
    split <;> rfl
  · simp [choosePlain]

/-- What records without their states tell of the descriptors and stamps. -/
theorem of_bare {s t : State} (h : t.records.map Record.bare = s.records.map Record.bare) :
    t.lowestFree = s.lowestFree ∧ t.newStamp = s.newStamp ∧ t.records.length = s.records.length := by
  have hnum : ∀ l : List Record, (l.map Record.bare).map Record.number = l.map Record.number := fun l => by
    simp [Record.bare, Function.comp_def]
  have hst : ∀ l : List Record, (l.map Record.bare).map Record.stamp = l.map Record.stamp := fun l => by
    simp [Record.bare, Function.comp_def]
  have h1 : t.records.map Record.number = s.records.map Record.number := by rw [← hnum, h, hnum]
  have h2 : t.records.map Record.stamp = s.records.map Record.stamp := by rw [← hst, h, hst]
  have hall : ∀ (l : List Record) (n : Nat), (l.all fun r => r.number != n) = (l.map Record.number).all fun m => m != n :=
    fun l n => by simp [List.all_map, Function.comp_def]
  have hfold : ∀ l : List Record,
      l.foldr (fun r m => max (r.stamp + 1) m) 0 = (l.map Record.stamp).foldr (fun k m => max (k + 1) m) 0 := fun l => by
    simp [List.foldr_map]
  refine ⟨?_, ?_, ?_⟩
  · simp only [State.lowestFree, hall, h1]
  · simp only [State.newStamp, hfold, h2]
  · simpa using congrArg List.length h

/-- Records that agree but in their states agree in out sides and destinations. -/
theorem bare_sides {s t : State} (h : t.records.map Record.bare = s.records.map Record.bare) {q : Record}
    (hq : q ∈ s.records) : ∃ p ∈ t.records, p.outSide = q.outSide ∧ p.destination = q.destination := by
  have : q.bare ∈ t.records.map Record.bare := by
    rw [h]
    exact List.mem_map_of_mem hq
  obtain ⟨p, hp, hpq⟩ := List.mem_map.mp this
  simp only [Record.bare, Record.mk.injEq] at hpq
  exact ⟨p, hp, by simp [hpq], by simp [hpq]⟩

/-- A change of entries that the second filter does not see and the first does not select is no change. -/
theorem filter_map_same {α : Type} (f : α → α) (p q : α → Bool) (l : List α) (hp : ∀ a ∈ l, p (f a) = q a)
    (hf : ∀ a ∈ l, q a = true → f a = a) : (l.map f).filter p = l.filter q := by
  induction l with
  | nil => rfl
  | cons a l ih =>
    have ih := ih (fun b hb => hp b (List.mem_cons_of_mem _ hb)) (fun b hb => hf b (List.mem_cons_of_mem _ hb))
    have ha := hp a (List.mem_cons_self ..)
    by_cases hq : q a = true
    · rw [List.map_cons, List.filter_cons_of_pos (by rw [ha, hq]), List.filter_cons_of_pos hq, ih,
        hf a (List.mem_cons_self ..) hq]
    · rw [List.map_cons, List.filter_cons_of_neg (by rw [ha]; exact hq), List.filter_cons_of_neg hq, ih]

/-- A choice of one port leaves the candidate of the other. -/
theorem candidate_chooseRecord {s : State} (hn : s.numbered = true) {x y : Side} {r : Record}
    (hr : s.candidate x = some r) (hy : y ≠ x) : (chooseRecord x r s).candidate y = s.candidate y := by
  obtain ⟨hm, hx, -⟩ := candidate_spec hr
  have hsame : ∀ q ∈ s.records, q.outSide = y → q.number ≠ r.number := by
    intro q hq hqy e
    have := ascending_unique ((numbered_iff s).mp hn).1 hq hm e
    subst this
    exact hy (hqy.symm.trans hx)
  simp only [State.candidate]
  congr 1
  simp only [chooseRecord, updateRecord_records, setPort_records]
  apply filter_map_same
  · intro q hq
    by_cases hqy : q.outSide = y
    · have hne := hsame q hq hqy
      simp only [if_neg hne, State.eligible, updateRecord_records, setPort_records, List.all_map]
      congr 2
      refine List.all_congr rfl fun p => ?_
      simp only [Function.comp]
      split <;> rfl
    · have : ((if q.number = r.number then { q with state := RecordState.sending } else q).outSide == y) = false := by
        split <;> simpa using hqy
      rw [this]
      simp [hqy]
  · intro q hq h
    simp only [Bool.and_eq_true, beq_iff_eq] at h
    rw [if_neg (hsame q hq h.1)]

/-- What the arbiter of one side leaves the other. -/
theorem arbitrate_away {s : State} (hn : s.numbered = true) {x y : Side} (hy : y ≠ x) :
    (arbitrate x s).port y = s.port y ∧ (arbitrate x s).candidate y = s.candidate y
      ∧ (arbitrate x s).queue y = s.queue y := by
  have hxy : y = x.other := by cases x <;> cases y <;> simp_all [Side.other]
  refine ⟨hxy ▸ arbitrate_other x s, ?_, ?_⟩
  · rcases arbitrate_cases x s with e | ⟨-, r, hr, e⟩ | ⟨-, -, e⟩ <;> rw [e]
    · exact candidate_chooseRecord hn hr hy
    · simp [State.candidate, State.eligible, choosePlain]
  · rcases arbitrate_cases x s with e | ⟨-, r, -, e⟩ | ⟨-, -, e⟩ <;> rw [e]
    · rw [chooseRecord, queue_congr (updateRecord_queueA ..) (updateRecord_queueB ..), queue_setPort]
    · rw [choosePlain, queue_setPort]

/-- What the arbiter of port X does, told by what the port takes (R26, R27). -/
theorem arbitrate_takes (x : Side) (s : State) :
    (∀ r, s.takesRecord x r → arbitrate x s = chooseRecord x r s)
      ∧ (s.takesPlain x → arbitrate x s = choosePlain x s)
      ∧ ((∀ r, ¬ s.takesRecord x r) → ¬ s.takesPlain x → arbitrate x s = s) := by
  by_cases hi : (s.port x).state = .idle
  · cases hc : s.candidate x <;> cases hq : s.queue x <;> cases hl : (s.port x).lastClass <;>
      simp [arbitrate, State.takesRecord, State.takesPlain, hi, hc, hq, hl]
  · simp [arbitrate, State.takesRecord, State.takesPlain, hi]

/-- The record of a number after a choice. -/
theorem record?_chooseRecord (x : Side) (r : Record) (s : State) (n : Nat) :
    (chooseRecord x r s).record? n =
      if n = r.number then (s.record? r.number).map (fun q => { q with state := .sending }) else s.record? n := by
  rw [chooseRecord, record?_updateRecord _ _ _ (fun q => { q with state := .sending }) (fun _ h => h)]
  simp [State.record?]

/-- The records after the arbiter of port X: the one it takes is SENDING, and every other is as it was (R113). -/
theorem record?_arbitrate {s : State} (x : Side) (hn : s.numbered = true) :
    (∀ r, s.takesRecord x r → (arbitrate x s).record? r.number = some { r with state := .sending })
      ∧ (∀ n r, s.record? n = some r → ¬ s.takesRecord x r → (arbitrate x s).record? n = some r)
      ∧ (∀ n, s.record? n = none → (arbitrate x s).record? n = none) := by
  obtain ⟨hr, hp, hno⟩ := arbitrate_takes x s
  by_cases hex : ∃ c, s.takesRecord x c
  · obtain ⟨c, hc⟩ := hex
    obtain ⟨hcm, -, -⟩ := candidate_spec hc.2.1
    have hcn := record?_of_mem hn hcm
    rw [hr c hc]
    simp only [record?_chooseRecord]
    refine ⟨fun r hrt => ?_, fun n r h ht => ?_, fun n h => ?_⟩
    · have : r = c := Option.some.inj (hrt.2.1.symm.trans hc.2.1)
      subst this
      rw [if_pos rfl, hcn]
      rfl
    · rw [if_neg]
      · exact h
      · rintro rfl
        rw [hcn] at h
        exact ht (Option.some.inj h ▸ hc)
    · rw [if_neg]
      · exact h
      · rintro rfl
        rw [hcn] at h
        cases h
  · have hex' : ∀ r, ¬ s.takesRecord x r := fun r h => hex ⟨r, h⟩
    by_cases hpl : s.takesPlain x
    · rw [hp hpl]
      have e : ∀ n, (choosePlain x s).record? n = s.record? n := fun n => by simp [State.record?, choosePlain]
      exact ⟨fun r h => absurd h (hex' r), fun n r h _ => (e n).trans h, fun n h => (e n).trans h⟩
    · rw [hno hex' hpl]
      exact ⟨fun r h => absurd h (hex' r), fun n r h _ => h, fun n h => h⟩

/-- The port after its own arbiter (R27). -/
theorem port_arbitrate (x : Side) (s : State) :
    (∀ r, s.takesRecord x r → (arbitrate x s).port x = (s.port x).choose (.record r.number) .confirmed)
      ∧ (s.takesPlain x → (arbitrate x s).port x = (s.port x).choose .plain .plain)
      ∧ ((∀ r, ¬ s.takesRecord x r) → ¬ s.takesPlain x → (arbitrate x s).port x = s.port x) := by
  obtain ⟨hr, hp, hno⟩ := arbitrate_takes x s
  refine ⟨fun r h => ?_, fun h => ?_, fun h1 h2 => by rw [hno h1 h2]⟩
  · rw [hr r h, chooseRecord, port_congr (updateRecord_portA ..) (updateRecord_portB ..), port_setPort_self]
  · rw [hp h, choosePlain, port_setPort_self]

/-- A port that is IDLE after its arbiter was IDLE before it, with nothing to take, and the arbiter did nothing (R26). -/
theorem arbitrate_idle {x : Side} {s : State} (h : ((arbitrate x s).port x).state = .idle) :
    arbitrate x s = s ∧ (s.port x).state = .idle ∧ s.candidate x = none ∧ s.queue x = [] := by
  have hi : (s.port x).state = .idle := by
    by_contra hne
    rw [arbitrate_not_idle hne] at h
    exact hne h
  obtain ⟨hr, hp, hno⟩ := port_arbitrate x s
  have h1 : ∀ r, ¬ s.takesRecord x r := fun r ht => by
    rw [hr r ht] at h
    simp [Port.choose] at h
  have h2 : ¬ s.takesPlain x := fun ht => by
    rw [hp ht] at h
    simp [Port.choose] at h
  refine ⟨(arbitrate_takes x s).2.2 h1 h2, hi, ?_, ?_⟩
  · cases hc : s.candidate x with
    | none => rfl
    | some r =>
      by_cases hq : s.queue x = []
      · exact absurd ⟨hi, hc, .inl hq⟩ (h1 r)
      · cases hl : (s.port x).lastClass with
        | plain => exact absurd ⟨hi, hc, .inr hl⟩ (h1 r)
        | confirmed => exact absurd ⟨hi, hq, .inr hl⟩ h2
  · by_contra hq
    cases hc : s.candidate x with
    | none => exact h2 ⟨hi, hq, .inl hc⟩
    | some r =>
      cases hl : (s.port x).lastClass with
      | plain => exact h1 r ⟨hi, hc, .inr hl⟩
      | confirmed => exact h2 ⟨hi, hq, .inr hl⟩

/-- With nothing to take on either side the arbiters do nothing. -/
theorem arbitrateBoth_same {s : State} (h : ∀ x, (s.port x).state = .idle → s.candidate x = none ∧ s.queue x = []) :
    arbitrateBoth s = s := by
  have e : ∀ x, arbitrate x s = s := fun x => by
    refine (arbitrate_takes x s).2.2 (fun r ht => ?_) fun ht => ?_
    · have := ht.2.1
      rw [(h x ht.1).1] at this
      cases this
    · exact ht.2.1 (h x ht.1).2
  rw [arbitrateBoth, e, e]

/-- All the arbiters of both ports can do (R26, R27, R113). -/
structure Arbitrated (s t : State) : Prop where
  kept : KeepsAtEnd s t
  rest : t.now = s.now ∧ t.free = s.free ∧ t.ownSeq = s.ownSeq ∧ t.latched = s.latched ∧ t.eventRecord = s.eventRecord
    ∧ t.repeatTimer = s.repeatTimer ∧ t.restartDue = s.restartDue ∧ t.respClaim = s.respClaim
    ∧ t.eventClaim = s.eventClaim ∧ t.claimsDue = s.claimsDue ∧ t.headDue = s.headDue
  takesRecord : ∀ x r, s.takesRecord x r → t.port x = (s.port x).choose (.record r.number) .confirmed
    ∧ t.record? r.number = some { r with state := .sending }
  takesPlain : ∀ x, s.takesPlain x → t.port x = (s.port x).choose .plain .plain
  takesNothing : ∀ x, (∀ r, ¬ s.takesRecord x r) → ¬ s.takesPlain x → t.port x = s.port x
  records : ∀ n r, s.record? n = some r → (∀ x, ¬ s.takesRecord x r) → t.record? n = some r
  absent : ∀ n, s.record? n = none → t.record? n = none
  idle : ∀ x, (t.port x).state = .idle →
    (s.port x).state = .idle ∧ s.candidate x = none ∧ s.queue x = [] ∧ t.candidate x = none ∧ t.queue x = []
  bare : t.records.map Record.bare = s.records.map Record.bare
  numbered : t.numbered = true

/-- Keeping what the end of a step keeps is transitive. -/
theorem KeepsAtEnd.trans {s t u : State} (h : KeepsAtEnd s t) (k : KeepsAtEnd t u) : KeepsAtEnd s u := by
  simp only [KeepsAtEnd, KeepsConfig, KeepsTables, KeepsPlainQueues, KeepsManagement, KeepsRest] at *
  simp_all

/-- The arbiter of one side leaves what the other would take. -/
theorem takes_arbitrate {s : State} (hn : s.numbered = true) {x y : Side} (hy : y ≠ x) :
    (∀ r, (arbitrate x s).takesRecord y r ↔ s.takesRecord y r) ∧ ((arbitrate x s).takesPlain y ↔ s.takesPlain y) := by
  obtain ⟨h1, h2, h3⟩ := arbitrate_away hn hy
  simp [State.takesRecord, State.takesPlain, h1, h2, h3]

/-- Both arbiters. -/
theorem arbitrated_both {s : State} (hn : s.numbered = true) : Arbitrated s (arbitrateBoth s) := by
  have hn1 := numbered_arbitrate .a hn
  have hba : Side.b ≠ .a := by decide
  have hab : Side.a ≠ .b := by decide
  obtain ⟨ha1, ha2, ha3⟩ := arbitrate_away hn1 hab
  obtain ⟨tb, tpb⟩ := takes_arbitrate hn hba
  obtain ⟨hb1, hb2, hb3⟩ := arbitrate_away hn hba
  obtain ⟨ra, ra', ra0⟩ := record?_arbitrate .a hn
  obtain ⟨rb, rb', rb0⟩ := record?_arbitrate .b hn1
  obtain ⟨pa, ppa, pna⟩ := port_arbitrate .a s
  obtain ⟨pb, ppb, pnb⟩ := port_arbitrate .b (arbitrate .a s)
  have kA := arbitrate_keeps .a s
  have kB := arbitrate_keeps .b (arbitrate .a s)
  have side : ∀ {t : State} {x r}, t.takesRecord x r → r.outSide = x := fun h => (candidate_spec h.2.1).2.1
  have held : ∀ {t : State} {x r}, t.numbered = true → t.takesRecord x r → t.record? r.number = some r :=
    fun hnt h => record?_of_mem hnt (candidate_spec h.2.1).1
  simp only [arbitrateBoth]
  refine
    { kept := kA.1.trans kB.1
      rest := ?_
      takesRecord := fun x r h => ?_
      takesPlain := fun x h => ?_
      takesNothing := fun x h1 h2 => ?_
      records := fun n r h h' => rb' n r (ra' n r h (h' .a)) fun ht => h' .b ((tb r).mp ht)
      absent := fun n h => rb0 n (ra0 n h)
      idle := fun x h => ?_
      bare := (arbitrate_bare ..).trans (arbitrate_bare ..)
      numbered := numbered_arbitrate .b hn1 }
  · have h1 := kA.2
    have h2 := kB.2
    simp_all
  · cases x with
    | a =>
      refine ⟨by rw [ha1, pa r h], rb' _ _ (ra r h) fun ht => ?_⟩
      have := side ht
      exact hab ((side h).symm.trans this)
    | b =>
      refine ⟨by rw [pb r ((tb r).mpr h), hb1], ?_⟩
      exact rb r ((tb r).mpr h)
  · cases x with
    | a => rw [ha1, ppa h]
    | b => rw [ppb (tpb.mpr h), hb1]
  · cases x with
    | a => rw [ha1, pna h1 h2]
    | b => rw [pnb (fun r hr => h1 r ((tb r).mp hr)) (fun hp => h2 (tpb.mp hp)), hb1]
  · cases x with
    | a =>
      rw [ha1] at h
      obtain ⟨e, h1, h2, h3⟩ := arbitrate_idle h
      refine ⟨h1, h2, h3, ?_, ?_⟩
      · rw [ha2, e, h2]
      · rw [ha3, e, h3]
    | b =>
      obtain ⟨e, h1, h2, h3⟩ := arbitrate_idle h
      rw [e]
      exact ⟨hb1 ▸ h1, hb2 ▸ h2, hb3 ▸ h3, h2, h3⟩

/-- A record held as it is. -/
theorem holds_self {s : State} {n : Nat} {r : Record} (h : s.record? n = some r) : Holds s n r := ⟨r, h, rfl, .inl rfl⟩

/-- A side has no candidate when none of its records is eligible (R112). -/
theorem candidate_none {s : State} {x : Side} :
    s.candidate x = none ↔ ∀ r ∈ s.records, r.outSide = x → s.eligible r = false := by
  have hold : ∀ l : List Record, oldest l = none ↔ l = [] := fun l => by
    cases l with
    | nil => simp [oldest]
    | cons a l =>
      simp only [oldest, reduceCtorEq, iff_false]
      cases oldest l with
      | none => simp
      | some q => dsimp only; split <;> simp
  rw [State.candidate, hold, List.filter_eq_nil_iff]
  simp

/-! ## The send condition -/

/-- The EVENT record that the Event Unit makes now (R175). -/
def State.newEvent (s : State) (station : Nat) (side : Side) : Record :=
  newRelayRecord .event station side (eventPayload (claimCells 1 s)) (claimCells 1 s)

/-- A 16-bit value in two bytes, high byte first. -/
theorem beBytes_two (v : BitVec 16) : beBytes 2 v.toNat = [v.extractLsb' 8 8, v.extractLsb' 0 8] := by
  simp only [beBytes, List.cons.injEq, and_true]
  constructor <;> apply BitVec.eq_of_toNat_eq <;> simp [Nat.shiftRight_eq_div_pow]

/-- Everything the creation of an EVENT record does (R175). -/
theorem createEvent_spec {s : State} (hn : s.numbered = true) {station : Nat} {side : Side}
    (he : s.eventStation = some (station, side)) (hp : s.eventPasses = true) :
    EventMade s (createEvent s) .queued ∧ KeepsAtEnd s (createEvent s) ∧ (createEvent s).now = s.now
      ∧ (createEvent s).restartDue = s.restartDue ∧ (createEvent s).respClaim = s.respClaim
      ∧ (createEvent s).eventClaim = false ∧ (∀ x, (createEvent s).port x = s.port x)
      ∧ (∀ n r, s.record? n = some r → (createEvent s).record? n = some r)
      ∧ (createEvent s).numbered = true
      ∧ (createEvent s).records = insertBy Record.number (s.newEvent station side) s.records := by
  simp only [State.eventPasses, Bool.and_eq_true, decide_eq_true_eq] at hp
  obtain ⟨hd, hf⟩ := hp
  obtain ⟨hlow, hfree⟩ := lowestFree_spec hd
  have hclaim : (claimCells 1 s).numbered = true := by simpa [State.numbered] using hn
  have hlen : (insertBy Record.number (s.newEvent station side) s.records).length = s.records.length + 1 := by
    have := sumCells_insertBy (key := Record.number) (fun _ => 1) (s.newEvent station side) (l := s.records) hfree
    simp only [sumCells, List.map_const', List.sum_replicate, smul_eq_mul, mul_one] at this
    omega
  have hrec : ∀ n, (createEvent s).record? n =
      if n = s.lowestFree then some (s.newEvent station side) else s.record? n := by
    intro n
    have := record?_insertRecord hclaim (s.newEvent station side) hlow hfree n
    simp only [createEvent, he, placeRelayRecord]
    exact this
  have hrecords : (createEvent s).records = insertBy Record.number (s.newEvent station side) s.records := by
    simp [createEvent, he, placeRelayRecord, State.newEvent]
  refine ⟨⟨?_, ?_, ?_, ?_, ?_, ?_, ?_, station, side, he, ?_⟩, ?_, ?_, ?_, ?_, ?_, ?_, ?_, ?_, hrecords⟩
  · rw [hrecords, hlen]
  · simp [createEvent, he, placeRelayRecord, claimCells]
  · simp [createEvent, he, placeRelayRecord]
  · simp [createEvent, he, placeRelayRecord, claimCells_latched, Event.bit, Event.index]
  · simp [createEvent, he, placeRelayRecord, State.unmasked, State.lowestFree]
  · simp [createEvent, he, placeRelayRecord]
  · intro n h1 h2
    rw [hrec, if_neg h1, h2]
  · rw [hrec, if_pos rfl]
    simp only [State.newEvent, newRelayRecord, eventPayload, eventSetBytes, beBytes_two, Role.kind, State.unmasked,
      List.cons_append, List.nil_append]
    simp [createEvent, he, placeRelayRecord, State.lowestFree, State.newStamp, Config.millisecond]
  · simp [KeepsAtEnd, KeepsConfig, KeepsTables, KeepsPlainQueues, KeepsManagement, KeepsRest, createEvent, he,
      placeRelayRecord]
  · simp [createEvent, he, placeRelayRecord]
  · simp [createEvent, he, placeRelayRecord]
  · simp [createEvent, he, placeRelayRecord]
  · simp [createEvent, he, placeRelayRecord]
  · intro x
    exact port_congr (by simp [createEvent, he, placeRelayRecord]) (by simp [createEvent, he, placeRelayRecord]) x
  · intro n r hr
    rw [hrec, if_neg (fun e => hfree r (record?_mem hr).1 ((record?_mem hr).2.trans e))]
    exact hr
  · have := numbered_insertRecord (s.newEvent station side) hlow hclaim
    simpa [State.numbered, createEvent, he, placeRelayRecord, State.newEvent] using this

/-- After the creation a side that had no candidate has the EVENT record, when it is the event side and no record for the
event station stands there, and none otherwise (R111, R112). -/
theorem candidate_createEvent {s : State} (hn : s.numbered = true) {station : Nat} {side : Side}
    (he : s.eventStation = some (station, side)) (hp : s.eventPasses = true) {x : Side} (hc : s.candidate x = none) :
    ((x = side ∧ ∀ q ∈ s.records, q.outSide = x → q.destination ≠ station) →
        (createEvent s).candidate x = some (s.newEvent station side))
      ∧ (¬ (x = side ∧ ∀ q ∈ s.records, q.outSide = x → q.destination ≠ station) →
        (createEvent s).candidate x = none) := by
  have hrecords := (createEvent_spec hn he hp).2.2.2.2.2.2.2.2.2
  simp only [State.eventPasses, Bool.and_eq_true, decide_eq_true_eq] at hp
  have hfree := (lowestFree_spec hp.1).2
  have hold := candidate_none.mp hc
  have hmem : ∀ q, q ∈ (createEvent s).records ↔ q = s.newEvent station side ∨ q ∈ s.records := fun q => by
    rw [hrecords]
    exact ⟨fun h => mem_insertBy h, fun h => h.elim (fun e => e ▸ mem_insertBy_self ..)
      fun h => mem_insertBy_of_mem h (hfree q h)⟩
  have hside : (s.newEvent station side).outSide = side := rfl
  have hdest : (s.newEvent station side).destination = station := rfl
  have hstamp : (s.newEvent station side).stamp = s.newStamp := by
    simp [State.newEvent, newRelayRecord, State.newStamp]
  -- old records stay held back
  have hne : ∀ r ∈ s.records, r.outSide = x → (createEvent s).eligible r = false := by
    intro r hr hx
    have h := hold r hr hx
    by_contra hcon
    rw [Bool.not_eq_false] at hcon
    simp only [State.eligible, Bool.and_eq_true, List.all_eq_true] at hcon h
    have hall : s.records.all (fun q => !(q.outSide == r.outSide && q.destination == r.destination && decide (q.stamp < r.stamp)))
        = true := List.all_eq_true.mpr fun q hq => hcon.2 q ((hmem q).mpr (.inr hq))
    rw [hcon.1, hall] at h
    cases h
  -- when the new one is eligible
  have hev : (createEvent s).eligible (s.newEvent station side) = true
      ↔ ∀ q ∈ s.records, q.outSide = side → q.destination ≠ station := by
    simp only [State.eligible, Bool.and_eq_true, List.all_eq_true, hside, hdest, hstamp]
    constructor
    · rintro ⟨-, h⟩ q hq h1 h2
      have := h q ((hmem q).mpr (.inr hq))
      simp [h1, h2, newStamp_spec hq] at this
    · intro h
      refine ⟨rfl, fun q hq => ?_⟩
      rcases (hmem q).mp hq with rfl | hq
      · simp [hstamp]
      · by_cases h1 : q.outSide = side
        · simp [h1, h q hq h1]
        · simp [h1]
  constructor
  · rintro ⟨rfl, h⟩
    cases hcand : (createEvent s).candidate x with
    | none =>
      have := candidate_none.mp hcand _ ((hmem _).mpr (.inl rfl)) hside
      rw [hev.mpr h] at this
      cases this
    | some r =>
      obtain ⟨h1, h2, h3⟩ := candidate_spec hcand
      rcases (hmem r).mp h1 with e | h1
      · rw [e]
      · rw [hne r h1 h2] at h3
        cases h3
  · intro h
    refine candidate_none.mpr fun r hr hx => ?_
    rcases (hmem r).mp hr with rfl | hr
    · by_contra hcon
      rw [Bool.not_eq_false] at hcon
      refine h ⟨hx.symm.trans hside, fun q hq hq' => hev.mp hcon q hq ?_⟩
      rw [hq', ← hx, hside]
    · exact hne r hr hx

/-- The Event Unit's test (R175): its record when nothing stands in its way, else its claim. -/
theorem testSend_cases (s : State) :
    ((s.sendCondition = true ∧ s.eventClaim = false ∧ s.eventPasses = true) ∧ testSend s = createEvent s)
      ∨ (¬ (s.sendCondition = true ∧ s.eventClaim = false ∧ s.eventPasses = true)
        ∧ testSend s = { s with eventClaim := s.eventClaim || s.sendCondition }) := by
  cases hc : s.sendCondition <;> cases he : s.eventClaim <;> cases hp : s.eventPasses <;>
    simp [testSend, hc, he, hp] <;> rw [← he]

/-! ## The end of a step -/

/-- Closing the tests touches the flags of log 3 and the RESPONSE claim only (R153). -/
theorem closeTests_spec (s : State) :
    ∃ r, closeTests s = { s with claimsDue := false, headDue := false, respClaim := r }
      ∧ (r = s.respClaim ∨ (r = true ∧ s.requests ≠ [] ∧ s.restart = none)) := by
  refine ⟨_, rfl, ?_⟩
  cases s.respClaim
  · cases hx : (s.headDue && !s.requests.isEmpty && s.restart.isNone)
    · exact .inl (by simp)
    · right
      simp only [Bool.and_eq_true, Bool.not_eq_true', List.isEmpty_eq_false_iff] at hx
      exact ⟨by simp, hx.1.2, by simpa using hx.2⟩
  · exact .inl (by simp)

/-- With nothing due no restart is. -/
theorem no_restart_of_not_due {s : State} (h : s.due = none) :
    s.held = true ∨ s.restartDue = false ∨ s.restart = none := by
  cases hh : s.held
  · right
    cases hr : s.restartDue
    · exact .inl rfl
    · cases hp : s.restart with
      | none => exact .inr rfl
      | some p => simp [State.due, hh, hr, hp] at h
  · exact .inl rfl

/-- With no restart due and the flags of log 3 down nothing is due. -/
theorem not_due_of_flags {s : State} (h : s.held = true ∨ s.restartDue = false ∨ s.restart = none)
    (hc : s.claimsDue = false) (hh : s.headDue = false) : s.due = none := by
  have e : s.responseClaimDue = false ∧ s.eventClaimDue = false := by
    simp [State.responseClaimDue, State.eventClaimDue, hc]
  rcases h with h | h | h
  · simp [State.due, h]
  · simp [State.due, h, e, hh]
  · simp [State.due, h, e, hh]

/-- The send condition reads six fields. -/
theorem sendCondition_congr {s t : State} (h1 : t.eventStation = s.eventStation) (h2 : t.eventRecord = s.eventRecord)
    (h3 : t.latched = s.latched) (h4 : t.mask = s.mask) (h5 : t.reported = s.reported)
    (h6 : t.repeatTimer = s.repeatTimer) : t.sendCondition = s.sendCondition := by
  simp [State.sendCondition, State.unmasked, h1, h2, h3, h4, h5, h6]

/-- An EVENT record made between two states is one made between states that agree with them. -/
theorem EventMade.transport {u v w t : State} {state : RecordState} (h : EventMade v w .queued)
    (hu : v.lowestFree = u.lowestFree ∧ v.newStamp = u.newStamp ∧ v.records.length = u.records.length ∧ v.free = u.free
      ∧ v.ownSeq = u.ownSeq ∧ v.latched = u.latched ∧ v.params = u.params ∧ v.own = u.own ∧ v.now = u.now
      ∧ v.eventStation = u.eventStation ∧ ∀ n, u.record? n = none → v.record? n = none)
    (ht : t.records.length = w.records.length ∧ t.free = w.free ∧ t.ownSeq = w.ownSeq ∧ t.latched = w.latched
      ∧ t.mask = w.mask ∧ t.epoch = w.epoch ∧ t.eventRecord = w.eventRecord ∧ t.repeatTimer = w.repeatTimer
      ∧ ∀ n, w.record? n = none → t.record? n = none)
    (hr : ∀ r, w.record? v.lowestFree = some r → t.record? v.lowestFree = some { r with state := state }) :
    EventMade u t state := by
  obtain ⟨e1, e2, e3, e4, e5, e6, e7, station, side, e8, e9⟩ := h
  obtain ⟨u1, u2, u3, u4, u5, u6, u7, u8, u9, u10, u11⟩ := hu
  obtain ⟨t1, t2, t3, t4, t5, t6, t7, t8, t9⟩ := ht
  have e10 := hr _ e9
  rw [u1] at e5 e7 e10
  rw [u4, u7] at e4
  refine ⟨?_, ?_, ?_, ?_, ?_, ?_, fun n h1 h2 => t9 n (e7 n h1 (u11 n h2)), station, side, u10 ▸ e8, ?_⟩
  · rw [t1, e1, u3]
  · rw [t2, e2, u4]
  · rw [t3, e3, u5]
  · rw [t4, e4, u6]
  · rw [t7, e5, t4, t5]
  · rw [t8, e6]
  · rw [e10, t4, t5, t6, u2, u5, u7, u8, u9]

/-- The fields that say what is due and what is still to be tested (log 3), but for the EVENT claim. -/
def KeepsDue (s t : State) : Prop :=
  t.held = s.held ∧ t.restartDue = s.restartDue ∧ t.restart = s.restart ∧ t.requests = s.requests
    ∧ t.respClaim = s.respClaim ∧ t.claimsDue = s.claimsDue ∧ t.headDue = s.headDue

/-- The arbiters leave what is to be tested. -/
theorem keepsDue_arbitrateBoth (s : State) : KeepsDue s (arbitrateBoth s) := by
  have h : ∀ x v, KeepsDue v (arbitrate x v) := fun x v => by
    obtain ⟨h, -, -, -, -, -, -, h1, h2, -, h3, h4⟩ := arbitrate_keeps x v
    obtain ⟨-, -, -, ⟨h5, -, h6⟩, ⟨h7, -⟩, -⟩ := h
    exact ⟨h7, h1, h6, h5, h2, h3, h4⟩
  obtain ⟨a1, a2, a3, a4, a5, a6, a7⟩ := h .a s
  obtain ⟨b1, b2, b3, b4, b5, b6, b7⟩ := h .b (arbitrate .a s)
  exact ⟨b1.trans a1, b2.trans a2, b3.trans a3, b4.trans a4, b5.trans a5, b6.trans a6, b7.trans a7⟩

/-- The Event Unit's test leaves what is to be tested. -/
theorem keepsDue_testSend (s : State) : KeepsDue s (testSend s) := by
  unfold testSend createEvent
  split
  · split
    · split <;> simp [KeepsDue, placeRelayRecord]
    · simp [KeepsDue]
  · simp [KeepsDue]

/-- The claim that the Event Unit withdraws is told from the state before the arbiters (R175). -/
theorem withdrawClaim_arbitrateBoth (u : State) : withdrawClaim (arbitrateBoth u)
    = { arbitrateBoth u with eventClaim := u.eventClaim && u.sendCondition } := by
  obtain ⟨⟨-, -, -, -, -, -, a1, a2, a3⟩, -, -, -, a4, a5, a6, -, -, a7, -⟩ := arbitrate_keeps .a u
  obtain ⟨⟨-, -, -, -, -, -, b1, b2, b3⟩, -, -, -, b4, b5, b6, -, -, b7, -⟩ := arbitrate_keeps .b (arbitrate .a u)
  have hc : (arbitrateBoth u).sendCondition = u.sendCondition :=
    sendCondition_congr (b3.trans a3) (b5.trans a5) (b4.trans a4) (b1.trans a1) (b2.trans a2) (b6.trans a6)
  have he : (arbitrateBoth u).eventClaim = u.eventClaim := b7.trans a7
  rw [withdrawClaim, hc, he]

/-- What the end of a step does to the flags of log 3 and to what is due (R78, R153). -/
theorem finish_flags (u : State) :
    (finish u).respClaim
        = (u.respClaim || ((finish u).due.isNone && u.headDue && !u.requests.isEmpty && u.restart.isNone))
      ∧ (finish u).due = ({ arbitrateBoth u with eventClaim := u.eventClaim && u.sendCondition } : State).due
      ∧ (finish u).claimsDue = (u.claimsDue && (finish u).due.isSome)
      ∧ (finish u).headDue = (u.headDue && (finish u).due.isSome) := by
  have hsame := withdrawClaim_arbitrateBoth u
  have hfin : finish u = match (withdrawClaim (arbitrateBoth u)).due with
      | some _ => withdrawClaim (arbitrateBoth u)
      | none => closeTests (arbitrateBoth (testSend (withdrawClaim (arbitrateBoth u)))) := rfl
  have hk : KeepsDue u (withdrawClaim (arbitrateBoth u)) := keepsDue_arbitrateBoth u
  rw [← hsame]
  generalize withdrawClaim (arbitrateBoth u) = v at hfin hk
  obtain ⟨-, -, k3, k4, k5, k6, k7⟩ := hk
  cases hd : v.due with
  | some d =>
    rw [hd] at hfin
    simp only at hfin
    rw [hfin, hd]
    simp [k5, k6, k7]
  | none =>
    rw [hd] at hfin
    simp only at hfin
    obtain ⟨t1, t2, t3, t4, t5, -, t7⟩ := keepsDue_testSend v
    obtain ⟨w1, w2, w3, w4, w5, -, w7⟩ := keepsDue_arbitrateBoth (testSend v)
    have hnone : (finish u).due = none := by
      rw [hfin]
      refine not_due_of_flags ?_ rfl rfl
      show (arbitrateBoth (testSend v)).held = true ∨ (arbitrateBoth (testSend v)).restartDue = false
        ∨ (arbitrateBoth (testSend v)).restart = none
      rw [w1, t1, w2, t2, w3, t3]
      exact no_restart_of_not_due hd
    rw [hnone]
    refine ⟨?_, rfl, by rw [hfin]; simp [closeTests], by rw [hfin]; simp [closeTests]⟩
    rw [hfin]
    simp [closeTests, w3, t3, k3, w4, t4, k4, w5, t5, k5, w7, t7, k7, Bool.and_assoc]

/-- Everything the end of a step can do (log 8). -/
theorem ends_finish {u : State} (hn : u.numbered = true) : EndsAs u (finish u) := by
  obtain ⟨hresponse, hdueAfter, hflags⟩ := finish_flags u
  have A := arbitrated_both hn
  generalize hv : arbitrateBoth u = v at A
  have hvk := A.kept
  have hvr := A.rest
  have hvb := of_bare A.bare
  obtain ⟨hvst, hvmask, hvrep⟩ : v.eventStation = u.eventStation ∧ v.mask = u.mask ∧ v.reported = u.reported := by
    simp only [KeepsAtEnd] at hvk
    exact ⟨hvk.2.2.2.2.2.2.2.2, hvk.2.2.2.2.2.2.1, hvk.2.2.2.2.2.2.2.1⟩
  obtain ⟨hvown, -, hvpar, -, -, -⟩ := hvk.1
  have hsend : v.sendCondition = u.sendCondition :=
    sendCondition_congr hvst hvr.2.2.2.2.1 hvr.2.2.2.1 hvmask hvrep hvr.2.2.2.2.2.1
  have hdesc : v.freeDescriptors = u.freeDescriptors := by simp [State.freeDescriptors, hvb.2.2]
  have hfin : finish u = match (withdrawClaim v).due with
      | some _ => withdrawClaim v
      | none => closeTests (arbitrateBoth (testSend (withdrawClaim v))) := by
    subst hv
    rfl
  generalize hs : withdrawClaim v = s1 at hfin
  have hs1 : s1 = { v with eventClaim := v.eventClaim && v.sendCondition } := hs.symm
  have hs1send : s1.sendCondition = u.sendCondition := by
    rw [← hsend, hs1]; exact sendCondition_congr rfl rfl rfl rfl rfl rfl
  have hs1claim : s1.eventClaim = (u.eventClaim && u.sendCondition) := by
    rw [hs1, ← hsend, ← hvr.2.2.2.2.2.2.2.2.1]
  have hs1n : s1.numbered = true := by rw [hs1]; exact A.numbered
  have hport : ∀ x, s1.port x = v.port x := fun x => by rw [hs1]; exact port_congr rfl rfl x
  have hcand : ∀ x, s1.candidate x = v.candidate x := fun x => by rw [hs1]; rfl
  have hqueue : ∀ x, s1.queue x = v.queue x := fun x => by rw [hs1]; exact queue_congr rfl rfl x
  have hrec : ∀ n, s1.record? n = v.record? n := fun n => by rw [hs1]; rfl
  have hkeep : KeepsAtEnd u s1 := by rw [hs1]; exact hvk
  cases hd : s1.due with
  | some d =>
    rw [hd] at hfin
    rw [hfin] at hresponse hdueAfter hflags ⊢
    have hno : ¬ u.makesEvent s1 := fun h => by rw [h.1] at hd; cases hd
    exact
      { kept := hkeep
        clock := by rw [hs1]; exact ⟨hvr.1, hvr.2.2.2.2.2.2.1⟩
        takesRecord := fun x r h => by rw [hport, hrec]; exact A.takesRecord x r h
        takesPlain := fun x h => by rw [hport]; exact A.takesPlain x h
        takesEvent := fun x h => absurd h hno
        takesNothing := fun x h1 h2 _ => by rw [hport]; exact A.takesNothing x h1 h2
        records := fun n r h h' => by rw [hrec]; exact A.records n r h h'
        event := fun h => absurd h hno
        noEvent := fun _ => by
          refine ⟨?_, ?_, ?_, ?_, ?_, ?_, fun n h => by rw [hrec]; exact A.absent n h⟩ <;> rw [hs1]
          exacts [hvb.2.2, hvr.2.1, hvr.2.2.1, hvr.2.2.2.1, hvr.2.2.2.2.1, hvr.2.2.2.2.2.1]
        claim := by rw [hs1claim, hs1send, hd]; simp [Bool.and_comm]
        response := hresponse
        due := hdueAfter
        flags := hflags }
  | none =>
    rw [hd] at hfin
    simp only at hfin
    have hnr := no_restart_of_not_due hd
    have hidle : ∀ x, (s1.port x).state = .idle → s1.candidate x = none ∧ s1.queue x = [] := fun x h => by
      rw [hport] at h
      rw [hcand, hqueue]
      exact (A.idle x h).2.2.2
    rcases testSend_cases s1 with ⟨⟨c1, c2, c3⟩, e⟩ | ⟨hno, e⟩
    · -- the EVENT record is created
      have hst : s1.eventStation.isSome = true := by
        simp only [State.sendCondition, Bool.and_eq_true] at c1
        exact c1.1.1
      obtain ⟨⟨station, side⟩, he⟩ := Option.isSome_iff_exists.mp hst
      have heu : u.eventStation = some (station, side) := by rw [← hvst, ← he, hs1]
      obtain ⟨hm, hk, hnow, hrd, hrc, hec, hwp, hwrec, hwn, -⟩ := createEvent_spec hs1n he c3
      have hwcand := fun x (h : s1.candidate x = none) => candidate_createEvent hs1n he c3 h
      have B := arbitrated_both hwn
      generalize hw : createEvent s1 = w at *
      generalize hx : arbitrateBoth w = x at B
      rw [e, hx] at hfin
      obtain ⟨r, hct, -⟩ := closeTests_spec x
      rw [hct] at hfin
      have hxk := B.kept
      have hxr := B.rest
      have hxb := of_bare B.bare
      obtain ⟨hxst, hxmask, hxrep⟩ : x.eventStation = w.eventStation ∧ x.mask = w.mask ∧ x.reported = w.reported := by
        simp only [KeepsAtEnd] at hxk
        exact ⟨hxk.2.2.2.2.2.2.2.2, hxk.2.2.2.2.2.2.1, hxk.2.2.2.2.2.2.2.1⟩
      have hall : KeepsAtEnd u x := (hkeep.trans hk).trans hxk
      have hnew : ∀ r ∈ s1.records, r ≠ s1.newEvent station side := fun r hr e => by
        simp only [State.eventPasses, Bool.and_eq_true, decide_eq_true_eq] at c3
        exact (lowestFree_spec c3.1).2 r hr (by rw [e]; rfl)
      -- a side that takes something now takes the EVENT record
      have htake : ∀ y r, w.takesRecord y r → r = s1.newEvent station side ∧ u.takesEvent y := by
        intro y r ⟨h1, h2, h3⟩
        rw [hwp] at h1
        have hi := hidle y h1
        rw [hport] at h1
        obtain ⟨i1, i2, i3, -⟩ := A.idle y h1
        by_cases hy : y = side ∧ ∀ q ∈ s1.records, q.outSide = y → q.destination ≠ station
        · refine ⟨Option.some.inj (h2.symm.trans ((hwcand y hi.1).1 hy)), i1, i2, i3, station, hy.1 ▸ heu, fun q hq hqy hqd => ?_⟩
          obtain ⟨p, hp, h4, h5⟩ := bare_sides A.bare hq
          exact hy.2 p (by rw [hs1]; exact hp) (h4.trans hqy) (h5.trans hqd)
        · rw [(hwcand y hi.1).2 hy] at h2
          cases h2
      have htakes : ∀ y, u.takesEvent y → w.takesRecord y (s1.newEvent station side) := by
        intro y ⟨h1, h2, h3, st, h4, h5⟩
        have hsy : (station, side) = (st, y) := Option.some.inj (heu.symm.trans h4)
        simp only [Prod.mk.injEq] at hsy
        have hpv : v.port y = u.port y :=
          A.takesNothing y (fun r h => absurd (h2.symm.trans h.2.1) (by simp)) fun h => h.2.1 h3
        have hi : (s1.port y).state = .idle := by rw [hport, hpv]; exact h1
        have hn := hidle y hi
        refine ⟨by rw [hwp]; exact hi, (hwcand y hn.1).1 ⟨hsy.2.symm, fun q hq hqy hqd => ?_⟩, .inl ?_⟩
        · obtain ⟨p, hp, h6, h7⟩ := bare_sides A.bare.symm (q := q) (by rw [hs1] at hq; exact hq)
          exact h5 p hp (h6.trans hqy) (h7.trans (hqd.trans hsy.1))
        · have hkq : KeepsPlainQueues s1 w := hk.2.2.1
          rw [queue_congr hkq.1 hkq.2]
          exact hn.2
      have hplain : ∀ y, ¬ w.takesPlain y := fun y h => by
        have h1 := h.1
        rw [hwp] at h1
        have hkq : KeepsPlainQueues s1 w := hk.2.2.1
        have := h.2.1
        rw [queue_congr hkq.1 hkq.2] at this
        exact this (hidle y h1).2
      have hold : ∀ n q, v.record? n = some q → x.record? n = some q := fun n q h => by
        rw [← hrec] at h
        refine B.records n q (hwrec n q h) fun y hy => ?_
        exact hnew q (record?_mem h).1 (htake y q hy).1
      have hmake : u.makesEvent (finish u) := by
        refine ⟨?_, hs1send ▸ c1, ?_, ?_⟩
        · rw [hfin]
          refine not_due_of_flags ?_ rfl rfl
          have h1 : x.held = s1.held := by
            rw [hxk.2.2.2.2.1.1, hk.2.2.2.2.1.1]
          have h2 : x.restart = s1.restart := by rw [hxk.2.2.2.1.2.2, hk.2.2.2.1.2.2]
          have h3 : x.restartDue = s1.restartDue := by rw [hxr.2.2.2.2.2.2.1, hrd]
          show x.held = true ∨ x.restartDue = false ∨ x.restart = none
          rw [h1, h2, h3]
          exact hnr
        · rw [hs1claim] at c2
          rw [hs1send] at c1
          rw [c1] at c2
          simpa using c2
        · simp only [State.eventPasses, Bool.and_eq_true, decide_eq_true_eq] at c3
          rw [hs1] at c3
          rw [← hdesc, ← hvr.2.1]
          exact c3
      have hmade : ∀ state, (∀ q, w.record? s1.lowestFree = some q →
          x.record? s1.lowestFree = some { q with state := state }) → EventMade u (finish u) state := by
        intro state hq
        rw [hfin]
        refine hm.transport ?_ ?_ hq
        · rw [hs1]
          exact ⟨hvb.1, hvb.2.1, hvb.2.2, hvr.2.1, hvr.2.2.1, hvr.2.2.2.1, hvpar, hvown, hvr.1, hvst, A.absent⟩
        · exact ⟨hxb.2.2, hxr.2.1, hxr.2.2.1, hxr.2.2.2.1, hxmask, hxk.1.2.2.2.2.2, hxr.2.2.2.2.1, hxr.2.2.2.2.2.1,
            B.absent⟩
      have hxport : ∀ y, (finish u).port y = x.port y := fun y => by rw [hfin]; exact port_congr rfl rfl y
      have hxrec : ∀ n, (finish u).record? n = x.record? n := fun n => by rw [hfin]; rfl
      have hstay : ∀ y, ¬ u.takesEvent y → x.port y = v.port y := fun y hy => by
        rw [B.takesNothing y (fun r h => hy (htake y r h).2) (hplain y), hwp, hport]
      have hbusy : ∀ y, (v.port y).state ≠ .idle → x.port y = v.port y := fun y hy => by
        rw [B.takesNothing y (fun r h => hy (by rw [← hport, ← hwp]; exact h.1)) (hplain y), hwp, hport]
      exact
        { kept := by rw [hfin]; exact hall
          clock := by
            rw [hfin]
            have h1 : v.now = u.now := hvr.1
            have h2 : v.restartDue = u.restartDue := hvr.2.2.2.2.2.2.1
            refine ⟨?_, ?_⟩
            · show x.now = _
              rw [hxr.1, hnow, hs1, ← h1]
            · show x.restartDue = _
              rw [hxr.2.2.2.2.2.2.1, hrd, hs1, ← h2]
          takesRecord := fun y q h => by
            obtain ⟨h1, h2⟩ := A.takesRecord y q h
            rw [hxport, hxrec, hbusy y (by rw [h1]; simp [Port.choose]), h1]
            exact ⟨rfl, hold _ _ h2⟩
          takesPlain := fun y h => by
            have h1 := A.takesPlain y h
            rw [hxport, hbusy y (by rw [h1]; simp [Port.choose]), h1]
            rfl
          takesEvent := fun y _ h => by
            have ht := htakes y h
            obtain ⟨b1, b2⟩ := B.takesRecord y _ ht
            have hpv : v.port y = u.port y :=
              A.takesNothing y (fun r h' => absurd (h.2.1.symm.trans h'.2.1) (by simp)) fun h' => h'.2.1 h.2.2.1
            have hlow : (s1.newEvent station side).number = u.lowestFree := by rw [← hvb.1, hs1]; rfl
            refine ⟨?_, hmade .sending fun q hq => ?_⟩
            · rw [hxport, b1, hwp, hport, hpv, hlow]
              rfl
            · have hq' := record?_of_mem hwn (candidate_spec ht.2.1).1
              have : (s1.newEvent station side).number = s1.lowestFree := rfl
              rw [this, hq] at hq'
              rw [← Option.some.inj hq'] at b2
              rw [← this]
              rw [← Option.some.inj hq']
              exact b2
          takesNothing := fun y h1 h2 h3 => by
            have hy : ¬ u.takesEvent y := fun h => h3 ⟨hmake, h⟩
            rw [hxport, hstay y hy]
            exact A.takesNothing y h1 h2
          records := fun n q h h' => by rw [hxrec]; exact hold n q (A.records n q h h')
          event := fun _ h => hmade .queued fun q hq => by
            have hqs : q.state = .queued := by
              obtain ⟨-, -, -, -, -, -, -, st', sd', -, hrec'⟩ := hm
              rw [hq] at hrec'
              rw [Option.some.inj hrec']
            rw [B.records _ q hq fun y hy => h y (htake y q hy).2, ← hqs]
          noEvent := fun h => absurd hmake h
          claim := by
            have hsome : x.eventRecord.isNone = false := by rw [hxr.2.2.2.2.1, hm.2.2.2.2.1]; rfl
            have hc : (finish u).sendCondition = false := by
              rw [hfin, State.sendCondition]
              simp [hsome]
            rw [hc, hfin]
            show x.eventClaim = _
            rw [hxr.2.2.2.2.2.2.2.2.1, hec]
            simp
          response := hresponse
          due := hdueAfter
          flags := hflags }
    · -- no EVENT record is created
      have hsame : arbitrateBoth (testSend s1) = testSend s1 := by
        rw [e]
        refine arbitrateBoth_same fun y h => ?_
        exact hidle y h
      rw [hsame, e] at hfin
      obtain ⟨r, hct, -⟩ := closeTests_spec { s1 with eventClaim := s1.eventClaim || s1.sendCondition }
      rw [hct] at hfin
      have hdue : (finish u).due = none := by
        rw [hfin]
        exact not_due_of_flags hnr rfl rfl
      have hport' : ∀ y, (finish u).port y = v.port y := fun y => by
        rw [hfin, ← hport]; exact port_congr rfl rfl y
      have hrec' : ∀ n, (finish u).record? n = v.record? n := fun n => by rw [hfin, ← hrec]; rfl
      have hnot : ¬ u.makesEvent (finish u) := by
        rintro ⟨-, h2, h3, h4, h5⟩
        refine hno ⟨hs1send.trans h2, by rw [hs1claim, h3]; rfl, ?_⟩
        rw [hs1]
        simp only [State.eventPasses, Bool.and_eq_true, decide_eq_true_eq]
        exact ⟨hdesc ▸ h4, hvr.2.1 ▸ h5⟩
      exact
        { kept := by rw [hfin]; exact hkeep
          clock := by rw [hfin, hs1]; exact ⟨hvr.1, hvr.2.2.2.2.2.2.1⟩
          takesRecord := fun y q h => by rw [hport', hrec']; exact A.takesRecord y q h
          takesPlain := fun y h => by rw [hport']; exact A.takesPlain y h
          takesEvent := fun y h => absurd h hnot
          takesNothing := fun y h1 h2 _ => by rw [hport']; exact A.takesNothing y h1 h2
          records := fun n q h h' => by rw [hrec']; exact A.records n q h h'
          event := fun h => absurd h hnot
          noEvent := fun _ => by
            refine ⟨?_, ?_, ?_, ?_, ?_, ?_, fun n h => by rw [hrec']; exact A.absent n h⟩ <;> rw [hfin, hs1]
            exacts [hvb.2.2, hvr.2.1, hvr.2.2.1, hvr.2.2.2.1, hvr.2.2.2.2.1, hvr.2.2.2.2.2.1]
          claim := by
            have hc : (finish u).sendCondition = s1.sendCondition := by
              rw [hfin]; exact sendCondition_congr rfl rfl rfl rfl rfl rfl
            rw [hc, hdue, hfin]
            show (s1.eventClaim || s1.sendCondition) = _
            rw [hs1claim, hs1send]
            cases u.eventClaim <;> cases u.sendCondition <;> rfl
          response := hresponse
          due := hdueAfter
          flags := hflags }

/-- The end of a step keeps the numbers. -/
theorem numbered_finish {s : State} (hn : s.numbered = true) : (finish s).numbered = true := by
  have hw : (withdrawClaim (arbitrateBoth s)).numbered = true := (arbitrated_both hn).numbered
  rw [finish]
  generalize withdrawClaim (arbitrateBoth s) = v at hw
  cases v.due with
  | some d => exact hw
  | none =>
    have ht : (testSend v).numbered = true := by
      rcases testSend_cases v with ⟨⟨c1, -, c3⟩, e⟩ | ⟨-, e⟩
      · have hst : v.eventStation.isSome = true := by
          simp only [State.sendCondition, Bool.and_eq_true] at c1
          exact c1.1.1
        obtain ⟨⟨station, side⟩, he⟩ := Option.isSome_iff_exists.mp hst
        rw [e]
        exact (createEvent_spec hw he c3).2.2.2.2.2.2.2.2.1
      · rw [e]
        exact hw
    exact (arbitrated_both ht).numbered

end Sys2Proof.Machine
end

