-- ==== Sys2Proof/Laws/Due.lean ====
section
/-! SUPPORT. The steps that are due (log 3): what one of them leaves to be tested, and that the bound on how many follow
one another is never met, so that a due step that is not wanted is carried out first. -/

namespace Sys2Proof.Machine

/-- The arbiters leave the EVENT claim. -/
theorem eventClaim_arbitrateBoth (s : State) : (arbitrateBoth s).eventClaim = s.eventClaim := by
  have h : ∀ x v, (arbitrate x v).eventClaim = v.eventClaim := fun x v => (arbitrate_keeps x v).2.2.2.2.2.2.2.2.2.1
  exact (h .b _).trans (h .a s)

/-- A sweep leaves the EVENT claim (R121). -/
theorem eventClaim_withdrawAll (cause : Mark) (rs : List Record) (s : State) :
    (withdrawAll cause rs s).eventClaim = s.eventClaim := by
  refine withdrawAll_induction (P := fun v => v.eventClaim = s.eventClaim) cause rs (fun r v hv => ?_) rfl
  rcases withdraw_cases r cause v with ⟨-, e⟩ | ⟨-, e⟩ | ⟨-, e⟩ <;> rw [e]
  · exact hv
  · exact hv
  · rw [(endUndelivered_keeps r cause.reason (dropRecordChoice r v)).eventClaim]
    rcases dropRecordChoice_cases r v with e | ⟨-, e⟩ <;> rw [e]
    · exact hv
    · rw [← hv]
      simp

/-- A request of the session's holder leaves the EVENT claim (R137). -/
theorem eventClaim_renewLease (q : Request) (s : State) : (renewLease q s).eventClaim = s.eventClaim := by
  unfold renewLease
  split
  · split <;> rfl
  · rfl

/-- A commit leaves the EVENT claim (R147). -/
theorem eventClaim_carryOutCommit (keepOpen : Bool) (c : Session) (s : State) :
    (carryOutCommit keepOpen c s).eventClaim = s.eventClaim := by
  have h : ∀ v, (settleSession keepOpen c v).eventClaim = v.eventClaim := fun v => by
    unfold settleSession
    split <;> rfl
  rw [carryOutCommit, h, routeCheck, eventClaim_arbitrateBoth, eventClaim_withdrawAll]
  simp [expireDups, installConfig]

/-- A purge leaves the EVENT claim (R128). -/
theorem eventClaim_purgeRecords (destination : Option Nat) (side : Option Side) (s : State) :
    (purgeRecords destination side s).eventClaim = s.eventClaim := by
  unfold purgeRecords
  rw [eventClaim_arbitrateBoth, eventClaim_withdrawAll]

/-- No command touches the EVENT claim (R155, part 4); the Event Unit tests it when the execution is over. -/
theorem eventClaim_carryOut (c : Command) (q : Request) (s : State) : (carryOut c q s).1.eventClaim = s.eventClaim := by
  cases c <;> simp only [carryOut]
  case commit =>
    unfold doCommit
    repeat' split
    all_goals first | exact eventClaim_carryOutCommit _ _ _ | rfl
  case purge =>
    unfold doPurge
    repeat' split
    all_goals first | exact eventClaim_purgeRecords _ _ _ | rfl
  case identify => rfl
  case readEvents => rfl
  case readStations => unfold doReadStations; (repeat' split) <;> rfl
  case readConfig => unfold doReadConfig; (repeat' split) <;> rfl
  case readCounters => unfold doReadCounters clearCounters; (repeat' split) <;> rfl
  case readCustody => unfold doReadCustody; (repeat' split) <;> rfl
  case openSession => unfold doOpenSession; (repeat' split) <;> rfl
  case closeSession => unfold doCloseSession; (repeat' split) <;> rfl
  case stageStation => unfold doStageStation; (repeat' first | split | (dsimp only; split)) <;> rfl
  case unstageStation => unfold doUnstageStation; (repeat' first | split | (dsimp only; split)) <;> rfl
  case stageGroups => unfold doStageGroups; (repeat' split) <;> rfl
  case stageParams => unfold doStageParams; (repeat' split) <;> rfl
  case restart => unfold doRestart; (repeat' split) <;> rfl
  case setEventStation => unfold doSetEventStation; (repeat' split) <;> rfl
  case setEventMask => unfold doSetEventMask; (repeat' split) <;> rfl
  case clearEvents => unfold doClearEvents; (repeat' split) <;> rfl

/-- The execution of a request leaves the rest of the queue, and the EVENT claim (R155). -/
theorem executeRequest_left (q : Request) (rest : List Request) (s : State) :
    (executeRequest q rest s).requests = rest ∧ (executeRequest q rest s).eventClaim = s.eventClaim := by
  refine ⟨rfl, ?_⟩
  have h : (decideRequest q s).1.eventClaim = s.eventClaim := by
    unfold decideRequest
    split
    · rw [eventClaim_carryOut, eventClaim_renewLease]
    · exact eventClaim_renewLease q s
  simp [executeRequest, leaveQueue, createResponse, placeRelayRecord, h]

/-- How many due steps can still follow, a restart apart: each takes a request or the EVENT claim. -/
def State.dueLeft (s : State) : Nat := s.requests.length + (if s.eventClaim then 1 else 0)

/-- When something is due after the end of a step, the requests are those of before it and the EVENT claim is not new. -/
theorem finish_left {u : State} (h : (finish u).due ≠ none) :
    (finish u).requests = u.requests ∧ ((finish u).eventClaim = true → u.eventClaim = true ∧ u.sendCondition = true) := by
  have hfin : finish u = match (withdrawClaim (arbitrateBoth u)).due with
      | some _ => withdrawClaim (arbitrateBoth u)
      | none => closeTests (arbitrateBoth (testSend (withdrawClaim (arbitrateBoth u)))) := rfl
  have hdue := (finish_flags u).2.1
  have hclaim : withdrawClaim (arbitrateBoth u)
      = { arbitrateBoth u with eventClaim := u.eventClaim && u.sendCondition } := withdrawClaim_arbitrateBoth u
  rw [← hclaim] at hdue
  cases hd : (withdrawClaim (arbitrateBoth u)).due with
  | none => exact absurd (hdue.trans hd) h
  | some d =>
    rw [hd] at hfin
    simp only at hfin
    rw [hfin, hclaim]
    exact ⟨(keepsDue_arbitrateBoth u).2.2.2.1, fun hc => by simpa using hc⟩

/-- After a restart nothing is due (R168, R169). -/
theorem not_due_after_restart (k : RestartKind) (s : State) : (finish (carryOutRestart k s)).due = none := by
  rw [(finish_flags _).2.1]
  obtain ⟨-, h1, -, -, -, h2, h3⟩ := keepsDue_arbitrateBoth (carryOutRestart k s)
  refine not_due_of_flags (.inr (.inl ?_)) ?_ ?_
  · show (arbitrateBoth (carryOutRestart k s)).restartDue = false
    rw [h1]
    cases k <;> rfl
  · show (arbitrateBoth (carryOutRestart k s)).claimsDue = false
    rw [h2]
    cases k <;> rfl
  · show (arbitrateBoth (carryOutRestart k s)).headDue = false
    rw [h3]
    cases k <;> rfl

/-- What is due, by its cases (R78, R153, R167; log 3). -/
theorem due_cases {s : State} {d : Due} (h : s.due = some d) :
    (∃ k, d = .restart k) ∨ ((d = .responseClaim ∨ d = .head) ∧ s.requests ≠ [])
      ∨ (d = .eventClaim ∧ s.eventClaim = true) := by
  have hreq : s.headPasses = true → s.requests ≠ [] := fun hp e => by simp [State.headPasses, e] at hp
  unfold State.due at h
  split at h
  · cases h
  · split at h
    · exact .inl ⟨_, (Option.some.inj h).symm⟩
    · split at h
      · rename_i hr
        simp only [State.responseClaimDue, Bool.and_eq_true] at hr
        exact .inr (.inl ⟨.inl (Option.some.inj h).symm, hreq hr.2⟩)
      · split at h
        · rename_i he
          simp only [State.eventClaimDue, Bool.and_eq_true] at he
          exact .inr (.inr ⟨(Option.some.inj h).symm, he.1.2⟩)
        · split at h
          · rename_i hh
            simp only [Bool.and_eq_true] at hh
            exact .inr (.inl ⟨.inr (Option.some.inj h).symm, hreq hh.2⟩)
          · cases h

/-- A due step leaves nothing due, or less than before. -/
theorem carryOutDue_left {s : State} {d : Due} (h : s.due = some d) :
    (carryOutDue d s).due = none ∨ (carryOutDue d s).dueLeft < s.dueLeft := by
  have hhead : s.requests ≠ [] → (finish (executeHead s)).due = none ∨ (finish (executeHead s)).dueLeft < s.dueLeft := by
    intro hr
    by_cases hn : (finish (executeHead s)).due = none
    · exact .inl hn
    · right
      obtain ⟨h1, h2⟩ := finish_left hn
      cases hq : s.requests with
      | nil => exact absurd hq hr
      | cons q rest =>
        have he : executeHead s = executeRequest q rest s := by simp [executeHead, hq]
        obtain ⟨h3, h4⟩ := executeRequest_left q rest s
        rw [he] at h1 h2 ⊢
        simp only [State.dueLeft, h1, h3, hq, List.length_cons]
        cases hc : (finish (executeRequest q rest s)).eventClaim with
        | false => simp only [Bool.false_eq_true, if_false]; omega
        | true =>
          have := (h2 hc).1
          rw [h4] at this
          simp [this]
  rcases due_cases h with ⟨k, rfl⟩ | ⟨rfl | rfl, hr⟩ | ⟨rfl, hc⟩
  · exact .inl (not_due_after_restart k s)
  · exact hhead hr
  · exact hhead hr
  · by_cases hn : (carryOutDue .eventClaim s).due = none
    · exact .inl hn
    · right
      obtain ⟨h1, h2⟩ := finish_left hn
      have hk : (createEvent s).requests = s.requests ∧ ((createEvent s).eventClaim = true → s.eventStation = none) := by
        unfold createEvent
        split
        · exact ⟨rfl, fun _ => by assumption⟩
        · simp [placeRelayRecord]
      have hno : (carryOutDue .eventClaim s).eventClaim = false := by
        rw [Bool.eq_false_iff]
        intro ht
        obtain ⟨h3, h4⟩ := h2 ht
        have h5 := hk.2 h3
        rw [createEvent, h5] at h4
        simp [State.sendCondition, h5] at h4
      have hr : (carryOutDue .eventClaim s).requests = s.requests := h1.trans hk.1
      simp [State.dueLeft, hno, hr, hc]

/-- With nothing due nothing is carried out. -/
theorem takeDue_of_not_due (wanted : State → Due → Bool) (n : Nat) {s : State} (h : s.due = none) :
    takeDue wanted n s = s := by
  cases n <;> simp [takeDue, h]

/-- A bound above what is left is as good as the next. -/
theorem takeDue_succ (wanted : State → Due → Bool) (n : Nat) (s : State) (h : s.dueLeft < n) :
    takeDue wanted (n + 1) s = takeDue wanted n s := by
  induction n generalizing s with
  | zero => omega
  | succ n ih =>
    cases hd : s.due with
    | none => rw [takeDue_of_not_due wanted _ hd, takeDue_of_not_due wanted _ hd]
    | some d =>
      rw [takeDue, takeDue, hd]
      simp only
      split
      · rfl
      · rcases carryOutDue_left hd with hn | hl
        · rw [takeDue_of_not_due wanted _ hn, takeDue_of_not_due wanted _ hn]
        · exact ih _ (by omega)

/-- Any two bounds above what is left agree. -/
theorem takeDue_enough (wanted : State → Due → Bool) (m n : Nat) (s : State) (hm : s.dueLeft < m) (hn : s.dueLeft < n) :
    takeDue wanted m s = takeDue wanted n s := by
  have h : ∀ k, takeDue wanted (s.dueLeft + 1 + k) s = takeDue wanted (s.dueLeft + 1) s := by
    intro k
    induction k with
    | zero => rfl
    | succ k ih =>
      exact (takeDue_succ wanted _ s (Nat.lt_of_lt_of_le s.dueLeft.lt_succ_self (Nat.le_add_right _ _))).trans ih
  obtain ⟨i, rfl⟩ := Nat.exists_eq_add_of_le (show s.dueLeft + 1 ≤ m by omega)
  obtain ⟨j, rfl⟩ := Nat.exists_eq_add_of_le (show s.dueLeft + 1 ≤ n by omega)
  rw [h i, h j]

/-- A due step that is not wanted is carried out first, and the wanted one is looked for after it (log 3). -/
theorem carryOutWanted_after {s : State} {d : Due} {wanted : State → Due → Bool} (h : s.due = some d)
    (hw : wanted s d = false) : carryOutWanted wanted s = carryOutWanted wanted (carryOutDue d s) := by
  have hb : ∀ v : State, v.dueLeft < v.dueBound := fun v => by
    unfold State.dueLeft State.dueBound
    split <;> omega
  have hs : s.dueLeft + 2 < s.dueBound := by
    unfold State.dueLeft State.dueBound
    split <;> omega
  have hstep : carryOutWanted wanted s = takeDue wanted (s.dueBound - 1) (carryOutDue d s) := by
    rw [carryOutWanted, show s.dueBound = s.dueBound - 1 + 1 by omega, takeDue, h]
    simp [hw]
  rw [hstep]
  rcases carryOutDue_left h with hn | hl
  · rw [takeDue_of_not_due wanted _ hn, carryOutWanted, takeDue_of_not_due wanted _ hn]
  · exact takeDue_enough wanted _ _ _ (by omega) (hb _)

/-- A due step is carried out before anything else is (log 3). -/
theorem settle_after {s : State} {d : Due} (h : s.due = some d) : settle s = settle (carryOutDue d s) :=
  carryOutWanted_after (wanted := fun _ _ => false) h rfl

end Sys2Proof.Machine
end

