-- ==== Sys2Proof/Laws/Withdrawal.lean ====
section
/-! SUPPORT. What a sweep of withdrawals does, once and whole: `Withdrawn` holds after it (R121, R32, R124, R80). -/

namespace Sys2Proof.Machine

/-- Counting twice is counting the sum (R171). -/
theorem saturatingAdd_add (v : BitVec 32) (m n : Nat) :
    saturatingAdd (saturatingAdd v m) n = saturatingAdd v (m + n) := by
  have hv := v.isLt
  unfold saturatingAdd
  by_cases h1 : v.toNat + m ≤ 4294967295
  · rw [if_pos h1]
    have h2 : (BitVec.ofNat 32 (v.toNat + m)).toNat = v.toNat + m := by
      rw [BitVec.toNat_ofNat, Nat.mod_eq_of_lt (by omega)]
    rw [h2, Nat.add_assoc]
  · have h2 : (BitVec.allOnes 32).toNat = 4294967295 := by simp
    have h3 : ¬ v.toNat + (m + n) ≤ 4294967295 := by omega
    rw [if_neg h1, if_neg h3, h2]
    split
    · rename_i h4
      have h5 : n = 0 := by omega
      subst h5
      rfl
    · rfl

/-- Counting nothing changes no count. -/
theorem saturatingAdd_zero (v : BitVec 32) : saturatingAdd v 0 = v := by
  have hv := v.isLt
  unfold saturatingAdd
  rw [if_pos (by omega), Nat.add_zero, BitVec.ofNat_toNat, BitVec.setWidth_eq]

/-- What a port's dropping its choice leaves (R32). -/
theorem dropped_dropChoice (p : Port) : Dropped p p.dropChoice := by
  unfold Dropped Port.dropChoice Port.noChoice
  cases h : p.state <;> simp

/-- A port that has dropped its choice is sending when it was. -/
theorem Dropped.sending_iff {p q : Port} (h : Dropped p q) : q.state = .sending ↔ p.state = .sending := by
  obtain ⟨h1, h2, h3⟩ := h
  by_cases hd : p.state = .defer
  · rw [h1 hd]
    simp [hd]
  · by_cases hr : p.state = .replying
    · rw [h2 hr]
    · rw [h3 hd hr]

/-- A port that has dropped its choice holds none, or the one it had. -/
theorem Dropped.choice {p q : Port} (h : Dropped p q) : q.choice = none ∨ q.choice = p.choice := by
  obtain ⟨h1, h2, h3⟩ := h
  by_cases hd : p.state = .defer
  · rw [h1 hd]
    exact .inl rfl
  · by_cases hr : p.state = .replying
    · rw [h2 hr]
      exact .inl rfl
    · rw [h3 hd hr]
      exact .inr rfl

/-- A NOTICE conversion by its parts (R124, R80). -/
theorem convertToNotice_spec (r : Record) (why : EndReason) (s : State) :
    convertToNotice r why s = count .noticesCreated
      { s with
        records := s.records.map (fun q => if q.number = r.number then noticeRecord r why s else q)
        ownSeq := s.ownSeq + 1, free := s.free + (r.cells - 1)
        claimsDue := s.claimsDue || decide (1 < r.cells) } := by
  unfold convertToNotice releaseFurtherCells
  by_cases h : 1 < r.cells
  · simp only [if_pos h]
    rw [decide_eq_true h, Bool.or_true]
    rfl
  · simp only [if_neg h]
    rw [decide_eq_false h, Bool.or_false, show r.cells - 1 = 0 by omega]
    rfl

/-- The NOTICE of a conversion for a mark's reason, by its fields (R124, R125, R185). -/
theorem noticeOf_noticeRecord (r : Record) (m : Mark) (s : State) : NoticeOf r m.reason s (noticeRecord r m.reason s) := by
  have h : m.reason ≠ .rejected := by cases m <;> simp [Mark.reason]
  unfold NoticeOf noticeRecord noticePayload
  simp [h, beBytes, Config.millisecond]

/-- The records that a sweep over `done` has withdrawn at once. -/
def goneOf (s : State) (done : List Record) : List Record := done.filter (fun r => s.withdrawal r == .atOnce)

/-- `w` is what is left of `s` when the sweep has reached the records `done`, all held in `s`. -/
structure Swept (cause : Mark) (done : List Record) (s w : State) : Prop where
  numbered : w.numbered = true
  atOnce : ∀ r ∈ done, s.withdrawal r = .atOnce →
    ∃ q, w.record? r.number = some q ∧ NoticeOf r cause.reason s q ∧ ∀ p ∈ s.records, p.stamp < q.stamp
  marked : ∀ r ∈ done, s.withdrawal r = .marked → w.record? r.number = some { r with mark := some cause }
  others : ∀ r ∈ s.records, (r ∉ done ∨ s.withdrawal r = .kept) → w.record? r.number = some r
  absent : ∀ n, s.record? n = none → w.record? n = none
  dropped : ∀ x, (∃ r ∈ done, s.withdrawal r = .atOnce ∧ r.outSide = x ∧ (s.port x).choice = some (.record r.number)) →
    Dropped (s.port x) (w.port x)
  kept : ∀ x, (∀ r ∈ done, s.withdrawal r = .atOnce → r.outSide = x → (s.port x).choice ≠ some (.record r.number)) →
    w.port x = s.port x
  counters : ∀ c, w.counter c =
    if c = .noticesCreated then saturatingAdd (s.counter c) (goneOf s done).length else s.counter c
  free : w.free = s.free + ((goneOf s done).map (fun r => r.cells - 1)).sum
  ownSeq : w.ownSeq = s.ownSeq + BitVec.ofNat 4 (goneOf s done).length
  rest : KeepsConfig s w ∧ KeepsTables s w ∧ KeepsPlainQueues s w ∧ KeepsManagement s w ∧ KeepsEvents s w ∧ KeepsRest s w
    ∧ w.now = s.now ∧ w.restartDue = s.restartDue ∧ w.respClaim = s.respClaim ∧ w.eventClaim = s.eventClaim
  flags : w.headDue = s.headDue
    ∧ w.claimsDue = (s.claimsDue || (goneOf s done).any (fun r => decide (1 < r.cells)))

namespace Swept

variable {cause : Mark} {done : List Record} {s w : State}

/-- Before the sweep nothing is swept. -/
theorem refl (cause : Mark) (hn : s.numbered = true) : Swept cause [] s s where
  numbered := hn
  atOnce := by simp
  marked := by simp
  others := fun r hr _ => record?_of_mem hn hr
  absent := fun _ h => h
  dropped := by simp
  kept := fun _ _ => rfl
  counters := fun c => by simp [goneOf, saturatingAdd_zero]
  free := by simp [goneOf]
  ownSeq := by simp [goneOf]
  rest := by simp [KeepsConfig, KeepsTables, KeepsPlainQueues, KeepsManagement, KeepsEvents, KeepsRest]
  flags := by simp [goneOf]

/-- Every port is what it was, or has dropped its choice. -/
theorem port_cases (h : Swept cause done s w) (x : Side) : w.port x = s.port x ∨ Dropped (s.port x) (w.port x) := by
  by_cases hx : ∃ r ∈ done, s.withdrawal r = .atOnce ∧ r.outSide = x ∧ (s.port x).choice = some (.record r.number)
  · exact .inr (h.dropped x hx)
  · refine .inl (h.kept x fun r hr h1 h2 h3 => hx ⟨r, hr, h1, h2, h3⟩)

/-- The sweep does not change what a withdrawal cause does to a record. -/
theorem withdrawal_eq (h : Swept cause done s w) (r : Record) : w.withdrawal r = s.withdrawal r := by
  have hp : (w.port r.outSide).state = .sending ↔ (s.port r.outSide).state = .sending := by
    rcases h.port_cases r.outSide with e | d
    · rw [e]
    · exact d.sending_iff
  unfold State.withdrawal
  split
  · rfl
  · cases r.state <;> simp [hp]

/-- A stamp made after the sweep is newer than every record's before it. -/
theorem newStamp_gt (h : Swept cause done s w) {p : Record} (hp : p ∈ s.records) :
    p.stamp < w.newStamp := by
  by_cases hin : p ∈ done
  · cases hw : s.withdrawal p with
    | atOnce =>
      obtain ⟨q, hq, -, hst⟩ := h.atOnce p hin hw
      exact lt_trans (hst p hp) (newStamp_spec (record?_mem hq).1)
    | marked => exact newStamp_spec (r := { p with mark := some cause }) (record?_mem (h.marked p hin hw)).1
    | kept => exact newStamp_spec (record?_mem (h.others p hp (.inr hw))).1
  · exact newStamp_spec (record?_mem (h.others p hp (.inl hin))).1

/-- A record the sweep keeps as it is. -/
theorem step_kept (h : Swept cause done s w) {r : Record} (hk : s.withdrawal r = .kept) :
    Swept cause (done ++ [r]) s w := by
  have hg : goneOf s (done ++ [r]) = goneOf s done := by simp [goneOf, hk]
  refine { h with
    atOnce := fun q hq hw => ?_, marked := fun q hq hw => ?_, others := fun q hq ho => ?_, dropped := fun x hx => ?_
    kept := fun x hx => ?_, counters := by rw [hg]; exact h.counters, free := by rw [hg]; exact h.free
    ownSeq := by rw [hg]; exact h.ownSeq, flags := by rw [hg]; exact h.flags }
  · rcases List.mem_append.mp hq with hq | hq
    · exact h.atOnce q hq hw
    · rw [List.mem_singleton.mp hq, hk] at hw
      cases hw
  · rcases List.mem_append.mp hq with hq | hq
    · exact h.marked q hq hw
    · rw [List.mem_singleton.mp hq, hk] at hw
      cases hw
  · exact h.others q hq (ho.imp (fun e c => e (List.mem_append.mpr (.inl c))) id)
  · obtain ⟨q, hq, hw, hx⟩ := hx
    rcases List.mem_append.mp hq with hq | hq
    · exact h.dropped x ⟨q, hq, hw, hx⟩
    · rw [List.mem_singleton.mp hq, hk] at hw
      cases hw
  · exact h.kept x fun q hq => hx q (List.mem_append.mpr (.inl hq))

/-- A record the sweep marks. -/
theorem step_marked (h : Swept cause done s w) (hs : s.numbered = true) {r : Record} (hr : r ∈ s.records)
    (hnew : r ∉ done) (hd : ∀ q ∈ done, q ∈ s.records) (hk : s.withdrawal r = .marked) :
    Swept cause (done ++ [r]) s (updateRecord r.number (fun q => { q with mark := some cause }) w) := by
  have hg : goneOf s (done ++ [r]) = goneOf s done := by simp [goneOf, hk]
  have hasc := ((numbered_iff s).mp hs).1
  have hne : ∀ q ∈ s.records, q ≠ r → q.number ≠ r.number := fun q hq e n => e (ascending_unique hasc hq hr n)
  have hdone : ∀ q ∈ done, q.number ≠ r.number := fun q hq => hne q (hd q hq) (fun e => hnew (e ▸ hq))
  have hlook : ∀ n, (updateRecord r.number (fun q => { q with mark := some cause }) w).record? n =
      if n = r.number then some { r with mark := some cause } else w.record? n := by
    intro n
    rw [record?_updateRecord _ _ _ (fun q => { q with mark := some cause }) (fun _ e => e), h.others r hr (.inl hnew)]
    rfl
  refine
    { numbered := numbered_updateRecord _ _ (fun _ e => e) h.numbered
      atOnce := fun q hq hw => ?_, marked := fun q hq hw => ?_, others := fun q hq ho => ?_, absent := fun n hn => ?_
      dropped := fun x hx => ?_, kept := fun x hx => ?_, counters := by rw [hg]; exact h.counters
      free := by rw [hg]; exact h.free, ownSeq := by rw [hg]; exact h.ownSeq
      rest := ?_, flags := by rw [hg]; exact h.flags }
  · rcases List.mem_append.mp hq with hq | hq
    · rw [hlook, if_neg (hdone q hq)]
      exact h.atOnce q hq hw
    · rw [List.mem_singleton.mp hq, hk] at hw
      cases hw
  · rcases List.mem_append.mp hq with hq | hq
    · rw [hlook, if_neg (hdone q hq)]
      exact h.marked q hq hw
    · rw [List.mem_singleton.mp hq, hlook, if_pos rfl]
  · have hqr : q ≠ r := by
      rintro rfl
      rcases ho with ho | ho
      · exact ho (by simp)
      · rw [hk] at ho
        cases ho
    rw [hlook, if_neg (hne q hq hqr)]
    exact h.others q hq (ho.imp (fun e c => e (List.mem_append.mpr (.inl c))) id)
  · have hnr : n ≠ r.number := by
      rintro rfl
      rw [record?_of_mem hs hr] at hn
      cases hn
    rw [hlook, if_neg hnr]
    exact h.absent n hn
  · obtain ⟨q, hq, hw, hx⟩ := hx
    rcases List.mem_append.mp hq with hq | hq
    · have := h.dropped x ⟨q, hq, hw, hx⟩
      rwa [port_congr (updateRecord_portA ..) (updateRecord_portB ..)]
    · rw [List.mem_singleton.mp hq, hk] at hw
      cases hw
  · rw [port_congr (updateRecord_portA ..) (updateRecord_portB ..)]
    exact h.kept x fun q hq => hx q (List.mem_append.mpr (.inl hq))
  · simpa [KeepsConfig, KeepsTables, KeepsPlainQueues, KeepsManagement, KeepsEvents, KeepsRest] using h.rest

/-- A FORWARD record the sweep withdraws at once. -/
theorem step_atOnce (h : Swept cause done s w) (hs : s.numbered = true) {r : Record} (hr : r ∈ s.records)
    (hf : r.origin = .forward) (hnew : r ∉ done) (hd : ∀ q ∈ done, q ∈ s.records) (hk : s.withdrawal r = .atOnce) :
    Swept cause (done ++ [r]) s (endUndelivered r cause.reason (dropRecordChoice r w)) := by
  have hg : goneOf s (done ++ [r]) = goneOf s done ++ [r] := by simp [goneOf, hk]
  have hasc := ((numbered_iff s).mp hs).1
  have hne : ∀ q ∈ s.records, q ≠ r → q.number ≠ r.number := fun q hq e n => e (ascending_unique hasc hq hr n)
  have hdone : ∀ q ∈ done, q.number ≠ r.number := fun q hq => hne q (hd q hq) (fun e => hnew (e ▸ hq))
  -- the drop
  obtain ⟨w1, hw1, hrec, hport, hsame⟩ : ∃ w1, dropRecordChoice r w = w1 ∧ w1.records = w.records
      ∧ (∀ x, w1.port x = if x = r.outSide ∧ (w.port x).choice = some (.record r.number) then (w.port x).dropChoice
        else w.port x)
      ∧ { w1 with portA := w.portA, portB := w.portB } = w := by
    refine ⟨_, rfl, ?_⟩
    rcases dropRecordChoice_cases r w with e | ⟨hc, e⟩
    · rw [e]
      refine ⟨rfl, fun x => ?_, rfl⟩
      split
      · rename_i hx
        obtain ⟨rfl, hx⟩ := hx
        unfold dropRecordChoice at e
        rw [if_pos hx] at e
        have := congrArg (fun s : State => s.port r.outSide) e
        simpa using this.symm
      · rfl
    · rw [e]
      refine ⟨by simp, fun x => ?_, ?_⟩
      · rw [port_setPort]
        by_cases hx : x = r.outSide
        · subst hx
          simp [hc]
        · simp [hx]
      · cases r.outSide <;> rfl
  have hspec := convertToNotice_spec r cause.reason w1
  have hend : endUndelivered r cause.reason (dropRecordChoice r w) = convertToNotice r cause.reason w1 := by
    rw [hw1]
    unfold endUndelivered
    rw [hf]
  rw [hend]
  have hk0 := convertToNotice_keeps r cause.reason w1
  have hn1 : w1.numbered = true := by
    have := h.numbered
    simpa [State.numbered, hrec] using this
  have hlook : ∀ n, (convertToNotice r cause.reason w1).record? n =
      if n = r.number then some (noticeRecord r cause.reason w1) else w.record? n := by
    intro n
    have h1 := record?_updateRecord w1 r.number n (fun _ => noticeRecord r cause.reason w1) (fun _ _ => rfl)
    have h2 : w1.record? = w.record? := by
      funext m
      simp [State.record?, hrec]
    rw [h2, h.others r hr (.inl hnew)] at h1
    simpa only [State.record?, convertToNotice_records, Option.map_some] using h1
  have hstamp : w1.newStamp = w.newStamp := by simp [State.newStamp, hrec]
  have hw1eq : ∀ {β : Type} (g : State → β), (∀ v p q, g { v with portA := p, portB := q } = g v) → g w1 = g w := by
    intro β g hgp
    rw [← hgp w1 w.portA w.portB, hsame]
  obtain ⟨r1, r2, r3, r4, r5, r6, r7, r8, r9, r10⟩ := h.rest
  have hnot : NoticeOf r cause.reason s (noticeRecord r cause.reason w1) := by
    have := noticeOf_noticeRecord r cause w1
    have e1 : w1.own = s.own := (hw1eq State.own fun _ _ _ => rfl).trans r1.1
    have e2 : w1.params = s.params := (hw1eq State.params fun _ _ _ => rfl).trans r1.2.2.1
    have e3 : w1.now = s.now := (hw1eq State.now fun _ _ _ => rfl).trans r7
    simpa only [NoticeOf, e1, e2, e3] using this
  have hportT : ∀ x, (convertToNotice r cause.reason w1).port x = w1.port x :=
    fun x => port_congr hk0.portA hk0.portB x
  refine
    { numbered := ?_
      atOnce := fun q hq hw => ?_, marked := fun q hq hw => ?_, others := fun q hq ho => ?_, absent := fun n hn => ?_
      dropped := fun x hx => ?_, kept := fun x hx => ?_, counters := fun d => ?_
      free := ?_, ownSeq := ?_, rest := ?_, flags := ?_ }
  · have := numbered_endUndelivered r cause.reason hn1
    rwa [endUndelivered, hf] at this
  · rcases List.mem_append.mp hq with hq | hq
    · rw [hlook, if_neg (hdone q hq)]
      exact h.atOnce q hq hw
    · rw [List.mem_singleton.mp hq, hlook, if_pos rfl]
      refine ⟨_, rfl, hnot, fun p hp => ?_⟩
      have := h.newStamp_gt hp
      rw [← hstamp] at this
      exact this
  · rcases List.mem_append.mp hq with hq | hq
    · rw [hlook, if_neg (hdone q hq)]
      exact h.marked q hq hw
    · rw [List.mem_singleton.mp hq, hk] at hw
      cases hw
  · have hqr : q ≠ r := by
      rintro rfl
      rcases ho with ho | ho
      · exact ho (by simp)
      · rw [hk] at ho
        cases ho
    rw [hlook, if_neg (hne q hq hqr)]
    exact h.others q hq (ho.imp (fun e c => e (List.mem_append.mpr (.inl c))) id)
  · have hnr : n ≠ r.number := by
      rintro rfl
      rw [record?_of_mem hs hr] at hn
      cases hn
    rw [hlook, if_neg hnr]
    exact h.absent n hn
  · rw [hportT, hport]
    obtain ⟨q, hq, hw, hqx, hqc⟩ := hx
    rcases List.mem_append.mp hq with hq | hq
    · have hdr := h.dropped x ⟨q, hq, hw, hqx, hqc⟩
      rw [if_neg]
      · exact hdr
      · rintro ⟨-, hc⟩
        rcases hdr.choice with e | e
        · rw [e] at hc
          cases hc
        · rw [e, hqc] at hc
          exact hdone q hq (by simpa using hc)
    · rw [List.mem_singleton.mp hq] at hqx hqc
      have hke : w.port x = s.port x := by
        refine h.kept x fun p hp h1 h2 h3 => ?_
        rw [hqc] at h3
        exact hdone p hp (by simpa using h3.symm)
      rw [hke, if_pos ⟨hqx.symm, hqc⟩]
      exact dropped_dropChoice _
  · rw [hportT, hport]
    have hke : w.port x = s.port x := h.kept x fun q hq => hx q (List.mem_append.mpr (.inl hq))
    rw [hke, if_neg]
    rintro ⟨hxr, hc⟩
    exact hx r (by simp) hk hxr.symm hc
  · have h1 : w1.counter d = w.counter d := hw1eq (fun v => v.counter d) fun _ _ _ => rfl
    have h2 : w1.counter .noticesCreated = w.counter .noticesCreated :=
      hw1eq (fun v => v.counter .noticesCreated) fun _ _ _ => rfl
    rw [hspec, count_eq_countBy, counter_countBy, hg]
    have hd0 := h.counters d
    split
    · rename_i e
      subst e
      rw [if_pos rfl] at hd0
      change saturatingAdd (w1.counter .noticesCreated) 1 = _
      rw [h2, hd0, saturatingAdd_add]
      simp
    · rename_i e
      rw [if_neg e] at hd0
      change w1.counter d = _
      rw [h1, hd0]
  · have h1 : w1.free = w.free := hw1eq State.free fun _ _ _ => rfl
    rw [hspec, hg]
    simp only [count_eq_countBy, countBy_free, List.map_append, List.sum_append, List.map_cons, List.map_nil,
      List.sum_cons, List.sum_nil]
    rw [h1, h.free]
    omega
  · have h1 : w1.ownSeq = w.ownSeq := hw1eq State.ownSeq fun _ _ _ => rfl
    rw [hspec, hg]
    simp only [count_eq_countBy, countBy_ownSeq, List.length_append, List.length_cons, List.length_nil]
    rw [h1, h.ownSeq, BitVec.add_assoc]
    congr 1
    apply BitVec.eq_of_toNat_eq
    simp
  · rw [hspec]
    have hrest := h.rest
    rw [← hsame] at hrest
    simpa [KeepsConfig, KeepsTables, KeepsPlainQueues, KeepsManagement, KeepsEvents, KeepsRest] using hrest
  · have h1 : w1.headDue = w.headDue := hw1eq State.headDue fun _ _ _ => rfl
    have h2 : w1.claimsDue = w.claimsDue := hw1eq State.claimsDue fun _ _ _ => rfl
    rw [hspec, hg]
    simp only [count_eq_countBy, countBy_headDue, countBy_claimsDue, List.any_append, List.any_cons, List.any_nil,
      Bool.or_false]
    rw [h1, h2, h.flags.1, h.flags.2, Bool.or_assoc]
    exact ⟨rfl, rfl⟩

/-- A record the sweep reaches, whatever becomes of it. -/
theorem step (h : Swept cause done s w) (hs : s.numbered = true) {r : Record} (hr : r ∈ s.records)
    (hf : r.origin = .forward) (hnew : r ∉ done) (hd : ∀ q ∈ done, q ∈ s.records) :
    Swept cause (done ++ [r]) s (withdraw r cause w) := by
  rcases withdraw_cases r cause w with ⟨hk, e⟩ | ⟨hk, e⟩ | ⟨hk, e⟩ <;> rw [e] <;> rw [h.withdrawal_eq] at hk
  · exact h.step_kept hk
  · exact h.step_marked hs hr hnew hd hk
  · exact h.step_atOnce hs hr hf hnew hd hk

/-- The whole sweep. -/
theorem all (h : Swept cause done s w) (hs : s.numbered = true) (rs : List Record)
    (hr : ∀ r ∈ done ++ rs, r ∈ s.records) (hf : ∀ r ∈ rs, r.origin = .forward) (hnd : (done ++ rs).Nodup) :
    Swept cause (done ++ rs) s (withdrawAll cause rs w) := by
  induction rs generalizing done w with
  | nil => simpa [withdrawAll] using h
  | cons r rs ih =>
    have e : done ++ r :: rs = (done ++ [r]) ++ rs := by simp
    have hnew : r ∉ done := fun hin => (List.nodup_append.mp hnd).2.2 r hin r (by simp) rfl
    have h1 := h.step hs (hr r (by simp)) (hf r (by simp)) hnew fun q hq => hr q (List.mem_append.mpr (.inl hq))
    rw [e]
    exact ih h1 (by rwa [← e]) (fun q hq => hf q (List.mem_cons_of_mem _ hq)) (by rwa [← e])

end Swept

/-- All that a sweep of withdrawals over the FORWARD records that `hit` chooses does (R121, R32, R124, R80). -/
theorem withdrawn_withdrawAll (cause : Mark) (hit : Record → Bool) {s : State} (hs : s.numbered = true)
    (hf : ∀ r ∈ s.records, hit r = true → r.origin = .forward) :
    Withdrawn cause hit s (withdrawAll cause (s.records.filter hit) s) := by
  have hasc := ((numbered_iff s).mp hs).1
  have h := (Swept.refl cause hs).all hs (s.records.filter hit) (fun r hr => (List.mem_filter.mp (by simpa using hr)).1)
    (fun r hr => hf r (List.mem_filter.mp hr).1 (List.mem_filter.mp hr).2)
    (by simpa using (nodup_of_ascending hasc).filter hit)
  rw [List.nil_append] at h
  have hmem : ∀ r, r ∈ s.records.filter hit ↔ r ∈ s.records ∧ hit r = true := fun r => List.mem_filter
  have hgone : goneOf s (s.records.filter hit) = s.records.filter (fun r => hit r && s.withdrawal r == .atOnce) := by
    simp [goneOf, List.filter_filter, Bool.and_comm]
  refine
    { atOnce := fun n r hr hh hw => ?_, marked := fun n r hr hh hw => ?_, others := fun n r hr ho => ?_
      absent := h.absent, ports := fun x => ⟨fun r hr hh hw hx hc => ?_, fun hx => ?_⟩
      counters := by rw [← hgone]; exact h.counters, free := by rw [← hgone]; exact h.free
      ownSeq := by rw [← hgone]; exact h.ownSeq, rest := h.rest, flags := by rw [← hgone]; exact h.flags }
  · obtain ⟨hm, rfl⟩ := record?_mem hr
    exact h.atOnce r ((hmem r).mpr ⟨hm, hh⟩) hw
  · obtain ⟨hm, rfl⟩ := record?_mem hr
    exact h.marked r ((hmem r).mpr ⟨hm, hh⟩) hw
  · obtain ⟨hm, rfl⟩ := record?_mem hr
    exact h.others r hm (ho.imp (fun e c => by simp [((hmem r).mp c).2] at e) id)
  · exact h.dropped x ⟨r, (hmem r).mpr ⟨hr, hh⟩, hw, hx, hc⟩
  · exact h.kept x fun r hr => hx r ((hmem r).mp hr).1 ((hmem r).mp hr).2

/-- All that a purge does (R128). -/
theorem purgeRecords_spec (destination : Option Nat) (side : Option Side) {s : State} (hs : s.numbered = true) :
    ∃ v, purgeRecords destination side s = arbitrateBoth v ∧ Withdrawn .purged (purgeMatches destination side) s v := by
  refine ⟨_, rfl, withdrawn_withdrawAll _ _ hs fun r _ hr => ?_⟩
  simp only [purgeMatches, Bool.and_eq_true, beq_iff_eq] at hr
  exact hr.1.1

/-- All that a route check does (R127). -/
theorem routeCheck_spec (chosen : Record → Bool) {s : State} (hs : s.numbered = true) :
    ∃ v, routeCheck chosen s = arbitrateBoth v
      ∧ Withdrawn .unrouted (fun r => r.origin == .forward && chosen r && s.unrouted r) s v := by
  refine ⟨_, rfl, withdrawn_withdrawAll _ _ hs fun r _ hr => ?_⟩
  simp only [Bool.and_eq_true, beq_iff_eq] at hr
  exact hr.1.1

end Sys2Proof.Machine
end

