-- ==== Sys2Proof/Laws/Executed.lean ====
section
/-! SUPPORT. What the execution of the head request does to the descriptors, and the state in which it leaves the relay
before the step ends (R155, R156). -/

namespace Sys2Proof.Machine

/-! ## Descriptors while a command is decided -/

/-- The record numbers, the clock and OWN stand. -/
def KeepsNumbers (s t : State) : Prop :=
  t.records.map Record.number = s.records.map Record.number ∧ t.now = s.now ∧ t.own = s.own

/-- Two changes that keep the numbers. -/
theorem KeepsNumbers.trans {s t u : State} (h : KeepsNumbers s t) (k : KeepsNumbers t u) : KeepsNumbers s u :=
  ⟨k.1.trans h.1, k.2.1.trans h.2.1, k.2.2.trans h.2.2⟩

/-- Nothing changed. -/
theorem KeepsNumbers.refl (s : State) : KeepsNumbers s s := ⟨rfl, rfl, rfl⟩

/-- What follows from the numbers alone: how many records there are, the lowest free descriptor and the numbering (R106). -/
theorem KeepsNumbers.of {s t : State} (h : KeepsNumbers s t) :
    t.records.length = s.records.length ∧ t.lowestFree = s.lowestFree ∧ t.numbered = s.numbered := by
  have hall : ∀ (l : List Record) (p : Nat → Bool), (l.all fun r => p r.number) = (l.map Record.number).all p :=
    fun l p => by simp [List.all_map, Function.comp_def]
  have hasc : ∀ l : List Record, ascending Record.number l = ascending id (l.map Record.number) := by
    intro l
    induction l with
    | nil => rfl
    | cons r l ih => cases l with
      | nil => rfl
      | cons p l => simp only [ascending, List.map_cons, id] at ih ⊢; rw [ih]
  refine ⟨by simpa using congrArg List.length h.1, ?_, ?_⟩
  · simp only [State.lowestFree]
    congr 2
    funext n
    rw [hall _ (· != n), hall _ (· != n), h.1]
  · simp only [State.numbered]
    rw [hasc, hasc, hall _ (fun n => decide (n < 64)), hall _ (fun n => decide (n < 64)), h.1]

/-- The arbiters only make records SENDING (R113). -/
theorem keepsNumbers_arbitrateBoth (s : State) : KeepsNumbers s (arbitrateBoth s) := by
  have h : ∀ x v, KeepsNumbers v (arbitrate x v) := fun x v => by
    have hnum : ∀ l : List Record, (l.map Record.bare).map Record.number = l.map Record.number := fun l => by
      simp [Record.bare, Function.comp_def]
    have hk := arbitrate_keeps x v
    exact ⟨by rw [← hnum, arbitrate_bare, hnum], hk.2.1, hk.1.1.1⟩
  exact (h .a s).trans (h .b _)

/-- A change of a record that keeps its number keeps the numbers. -/
theorem map_number_update (n : Nat) (f : Record → Record) (hf : ∀ r, r.number = n → (f r).number = n) (s : State) :
    (updateRecord n f s).records.map Record.number = s.records.map Record.number := by
  simp only [updateRecord_records, List.map_map]
  refine List.map_congr_left fun q _ => ?_
  simp only [Function.comp]
  split
  · rename_i h; rw [hf q h, h]
  · rfl

/-- A sweep over FORWARD records keeps every descriptor (R121, R124). -/
theorem keepsNumbers_withdrawAll (cause : Mark) {rs : List Record} (hf : ∀ r ∈ rs, r.origin = .forward) (s : State) :
    KeepsNumbers s (withdrawAll cause rs s) := by
  induction rs generalizing s with
  | nil => exact ⟨rfl, rfl, rfl⟩
  | cons r rs ih =>
    have h1 : KeepsNumbers s (withdraw r cause s) := by
      rcases withdraw_cases r cause s with ⟨-, e⟩ | ⟨-, e⟩ | ⟨-, e⟩ <;> rw [e]
      · exact ⟨rfl, rfl, rfl⟩
      · exact ⟨map_number_update r.number (fun q => { q with mark := some cause }) (fun _ h => h) s, rfl, rfl⟩
      · have hr := hf r (by simp)
        simp only [endUndelivered, hr]
        have hd : KeepsNumbers s (dropRecordChoice r s) := by
          rcases dropRecordChoice_cases r s with e | ⟨-, e⟩ <;> rw [e]
          · exact ⟨rfl, rfl, rfl⟩
          · exact ⟨by simp, by simp, by simp⟩
        rw [convertToNotice_spec]
        exact ⟨(map_number_update r.number (fun _ => noticeRecord r cause.reason (dropRecordChoice r s)) (fun _ _ => rfl) _).trans hd.1, hd.2.1, hd.2.2⟩
    have h2 := ih (fun q hq => hf q (List.mem_cons_of_mem _ hq)) (withdraw r cause s)
    exact h1.trans h2

/-- A commit keeps every descriptor (R147, R127). -/
theorem keepsNumbers_carryOutCommit (keepOpen : Bool) (c : Session) (s : State) :
    KeepsNumbers s (carryOutCommit keepOpen c s) := by
  have h : ∀ v, KeepsNumbers v (settleSession keepOpen c v) := fun v => by
    unfold settleSession
    split <;> exact ⟨rfl, rfl, rfl⟩
  have h0 : KeepsNumbers s (latch .committed (expireDups (installConfig c.staged s))) := by
    simp [KeepsNumbers, expireDups, installConfig]
  have h1 := h (routeCheck (fun _ => true) (latch .committed (expireDups (installConfig c.staged s))))
  have h2 : ∀ v, KeepsNumbers v (routeCheck (fun _ => true) v) := fun v => by
    have a := keepsNumbers_withdrawAll .unrouted
      (rs := v.records.filter (fun r => r.origin == .forward && true && v.unrouted r))
      (fun r hr => by
        have := (List.mem_filter.mp hr).2
        simp only [Bool.and_eq_true, beq_iff_eq] at this
        exact this.1.1) v
    have b := keepsNumbers_arbitrateBoth (withdrawAll .unrouted
      (v.records.filter (fun r => r.origin == .forward && true && v.unrouted r)) v)
    exact a.trans b
  have h2 := h2 (latch .committed (expireDups (installConfig c.staged s)))
  exact (h0.trans h2).trans h1

/-- A purge keeps every descriptor (R128). -/
theorem keepsNumbers_purgeRecords (destination : Option Nat) (side : Option Side) (s : State) :
    KeepsNumbers s (purgeRecords destination side s) := by
  have a := keepsNumbers_withdrawAll .purged (rs := s.records.filter (purgeMatches destination side))
    (fun r hr => by
      have := (List.mem_filter.mp hr).2
      simp only [purgeMatches, Bool.and_eq_true, beq_iff_eq] at this
      exact this.1.1) s
  have b := keepsNumbers_arbitrateBoth (withdrawAll .purged (s.records.filter (purgeMatches destination side)) s)
  exact a.trans b

/-- No command takes or frees a descriptor of its own, moves the clock or writes OWN (R155, part 4). -/
theorem keepsNumbers_carryOut (c : Command) (q : Request) (s : State) : KeepsNumbers s (carryOut c q s).1 := by
  cases c <;> simp only [carryOut]
  case commit =>
    unfold doCommit
    repeat' split
    all_goals first | exact keepsNumbers_carryOutCommit _ _ _ | exact .refl _
  case purge =>
    unfold doPurge
    repeat' split
    all_goals first | exact keepsNumbers_purgeRecords _ _ _ | exact .refl _
  case identify => exact .refl _
  case readEvents => exact .refl _
  case readStations => unfold doReadStations; (repeat' split) <;> exact ⟨rfl, rfl, rfl⟩
  case readConfig => unfold doReadConfig; (repeat' split) <;> exact ⟨rfl, rfl, rfl⟩
  case readCounters => unfold doReadCounters clearCounters; (repeat' split) <;> exact ⟨rfl, rfl, rfl⟩
  case readCustody => unfold doReadCustody; (repeat' split) <;> exact ⟨rfl, rfl, rfl⟩
  case openSession => unfold doOpenSession; (repeat' split) <;> exact ⟨rfl, rfl, rfl⟩
  case closeSession => unfold doCloseSession; (repeat' split) <;> exact ⟨rfl, rfl, rfl⟩
  case stageStation => unfold doStageStation; (repeat' first | split | (dsimp only; split)) <;> exact ⟨rfl, rfl, rfl⟩
  case unstageStation => unfold doUnstageStation; (repeat' first | split | (dsimp only; split)) <;> exact ⟨rfl, rfl, rfl⟩
  case stageGroups => unfold doStageGroups; (repeat' split) <;> exact ⟨rfl, rfl, rfl⟩
  case stageParams => unfold doStageParams; (repeat' split) <;> exact ⟨rfl, rfl, rfl⟩
  case restart => unfold doRestart; (repeat' split) <;> exact ⟨rfl, rfl, rfl⟩
  case setEventStation => unfold doSetEventStation; (repeat' split) <;> exact ⟨rfl, rfl, rfl⟩
  case setEventMask => unfold doSetEventMask; (repeat' split) <;> exact ⟨rfl, rfl, rfl⟩
  case clearEvents => unfold doClearEvents; (repeat' split) <;> exact ⟨rfl, rfl, rfl⟩

/-- Up to the creation of its RESPONSE record an execution keeps the descriptors, the clock and OWN (R155). -/
theorem keepsNumbers_decideRequest (q : Request) (s : State) : KeepsNumbers s (decideRequest q s).1 := by
  have h : KeepsNumbers s (renewLease q s) := by
    unfold renewLease
    split
    · split <;> exact ⟨rfl, rfl, rfl⟩
    · exact ⟨rfl, rfl, rfl⟩
  unfold decideRequest
  split
  · rename_i c _
    have h2 := keepsNumbers_carryOut c q (renewLease q s)
    exact h.trans h2
  · exact h

/-- A request that executes finds a descriptor free (R153), and its command leaves it free. -/
theorem executing_room {s : State} {q : Request} {rest : List Request} (h : s.executing q rest) :
    s.records.length < 64 ∧ (decideRequest q s).1.records.length < 64 := by
  have hroom : s.records.length < 64 := by
    obtain ⟨hq, hd⟩ := h
    have hp : s.headPasses = true := by
      unfold State.due at hd
      (repeat' split at hd) <;> simp_all [State.responseClaimDue]
    simp only [State.headPasses, hq, State.canExecute, Bool.and_eq_true, decide_eq_true_eq, State.freeDescriptors,
      Config.descriptors] at hp
    obtain ⟨⟨-, h1⟩, -⟩ := hp
    replace h1 : 1 ≤ 64 - s.records.length := of_decide_eq_true h1
    omega
  exact ⟨hroom, (keepsNumbers_decideRequest q s).of.1 ▸ hroom⟩

/-! ## The RESPONSE record and the request's leaving -/

/-- Everything the creation of a RESPONSE record and the leaving of its request do (R155, R156, R109, R81). -/
theorem executed_spec {s : State} (hn : s.numbered = true) (hd : s.records.length < 64) (q : Request)
    (rest : List Request) (a : Answer) :
    let v := executed q rest a s
    let cells := cellsFor (5 + a.results.length)
    v.record? s.lowestFree = some (newRelayRecord .response q.station q.side (responsePayload q a) s)
    ∧ (∀ n, n ≠ s.lowestFree → v.record? n = s.record? n)
    ∧ v.numbered = true ∧ v.records.length = s.records.length + 1
    ∧ v.ownSeq = s.ownSeq + 1 ∧ v.free = s.free - cells + q.cells
    ∧ v.latched = (if s.params.lowMark ≤ s.free ∧ s.free - cells < s.params.lowMark then s.latched ||| 0x2000#16
        else s.latched)
    ∧ v.requests = rest ∧ v.respClaim = false ∧ v.claimsDue = true ∧ v.headDue = !rest.isEmpty
    ∧ KeepsConfig s v ∧ KeepsTables s v ∧ KeepsPlainQueues s v ∧ KeepsRest s v
    ∧ (∀ x, v.port x = s.port x) ∧ v.counters = s.counters ∧ v.session = s.session ∧ v.restart = s.restart
    ∧ v.restartDue = s.restartDue ∧ v.eventClaim = s.eventClaim ∧ v.mask = s.mask ∧ v.reported = s.reported
    ∧ v.eventStation = s.eventStation ∧ v.eventRecord = s.eventRecord ∧ v.repeatTimer = s.repeatTimer
    ∧ v.now = s.now := by
  intro v cells
  obtain ⟨hlow, hfree⟩ := lowestFree_spec (s := s) (by simp only [State.freeDescriptors, Config.descriptors]; omega)
  have hcells : cellsFor (responsePayload q a).length = cells := by
    show cellsFor _ = cellsFor _
    congr 1
    simp [responsePayload]; omega
  have hclaim : (claimCells cells s).numbered = true := by simpa [State.numbered] using hn
  have hv : v = leaveQueue q rest (placeRelayRecord .response q.station q.side (responsePayload q a) (claimCells cells s)) := by
    simp only [v, executed, createResponse, hcells]
  have hnew : newRelayRecord .response q.station q.side (responsePayload q a) (claimCells cells s)
      = newRelayRecord .response q.station q.side (responsePayload q a) s := by
    simp [newRelayRecord, State.lowestFree, State.newStamp]
  generalize hr : newRelayRecord .response q.station q.side (responsePayload q a) s = r at *
  have hnum : r.number = s.lowestFree := by rw [← hr]; rfl
  have hrecords : v.records = insertBy Record.number r s.records := by
    rw [hv, leaveQueue, placeRelayRecord, hnew]
    rfl
  have hrec : ∀ n, v.record? n = if n = s.lowestFree then some r else s.record? n := by
    intro n
    have := record?_insertRecord hclaim r (hnum ▸ hlow) (fun p hp => hnum ▸ hfree p hp) n
    rw [hnum] at this
    simpa [State.record?, hrecords] using this
  have hlen : v.records.length = s.records.length + 1 := by
    have := sumCells_insertBy (key := Record.number) (fun _ => 1) r (l := s.records) (fun p hp => hnum ▸ hfree p hp)
    simp only [sumCells, List.map_const', List.sum_replicate, smul_eq_mul, mul_one] at this
    rw [hrecords]
    omega
  have hvn : v.numbered = true := by
    have := numbered_insertRecord r (hnum ▸ hlow) hclaim
    simpa [State.numbered, hrecords] using this
  refine ⟨by rw [hrec, if_pos rfl], fun n h => by rw [hrec, if_neg h], hvn, hlen, ?_⟩
  clear hrec hlen hvn hrecords
  clear_value v
  subst hv
  have hport : ∀ x, (leaveQueue q rest (placeRelayRecord .response q.station q.side (responsePayload q a)
      (claimCells cells s))).port x = s.port x := fun x =>
    port_congr (by simp [leaveQueue, placeRelayRecord]) (by simp [leaveQueue, placeRelayRecord]) x
  simp only [hport, implies_true, true_and]
  simp [leaveQueue, placeRelayRecord, claimCells_latched, KeepsConfig, KeepsTables, KeepsPlainQueues, KeepsRest, Event.bit,
    Event.index]

end Sys2Proof.Machine
end

