-- ==== Sys2Proof/WellFormed.lean ====
section
/-! DEFINITION. The operands a command may carry. -/

namespace Sys2Proof

/-- A record number names one of the 64 descriptors (R106). -/
def recordNumberOk (n : Nat) : Bool := n < Config.descriptors

/-- The source of a duplicate entry is an individual station (R87). -/
def sourceOk (n : Nat) : Bool := 1 ≤ n && n ≤ 1983

/-- Well-formed commands: the timer of a record names a descriptor, the hold of a duplicate entry an individual
station. Every other operand is admitted at every value: any bytes may come from a line. -/
def Instr.wellFormed : Instr → Bool
  | .holdEnd r => recordNumberOk r
  | .lifetimeExpiry r => recordNumberOk r
  | .dupHoldExpiry src => sourceOk src
  | .hardwareReset .. | .lineDown _ | .lineUp _ | .lineActivityStart .. | .receptionEnd .. | .replySent ..
  | .quietWaitComplete _ | .contentionLoss .. | .transmitDone .. | .replyTimerExpiry _ | .agingTick | .leaseExpiry
  | .eventRepeatExpiry | .eventClaimGranted | .responseClaimGranted | .malformedRequest | .identify | .readStations
  | .readConfig | .readCounters | .readCustody | .readEvents | .openSession | .closeSession | .stageStation
  | .unstageStation | .stageGroups | .stageParams | .commit | .purge | .restart | .restartQueues | .restartFull _
  | .setEventStation | .setEventMask | .clearEvents | .lineOkChange .. | .resetNLow .. => true

end Sys2Proof
end

