-- ==== Sys2Proof/Tests/Slice0.lean ====
section
/-! SUPPORT. Tests: ill-formed commands, telegrams written out from R184, each command on a small state with the result the
rules give, and states that meet the hypotheses of the statements, at the ends of their ranges. -/

namespace Sys2Proof.Tests

open Sys2Proof Sys2Proof.Machine

-- The kernel evaluates these theorems one after another, so that no more memory is held than one of them needs.
set_option Elab.async false

/-! ## Small states -/

/-- A port that is up and IDLE. -/
def up : Port := { Port.afterReset 0 true with state := .idle, quietSince := 100000 }

/-- The relay at station 900 and 125 kbit/s, both ports IDLE, half a second after reset. -/
def base : State :=
  { State.reset with
    now := 500000, own := 900, rate := 1#2, latched := 0x0001#16, portA := up, portB := up
    pins := { station := 900#11, rate := 1#2, start := true } }

/-- A FORWARD record for a CDATA from 12 on side A to 407 on side B. -/
def fwd (n : Nat) : Record :=
  { number := n, origin := .forward, kind := .cdata, source := 12, destination := 407, seq := 5#4, inSide := .a
    outSide := .b, payload := [1, 2], stamp := n, state := .queued, attempts := 0, busyCount := 0, retryLimit := 4
    busyLimit := 8, deadline := 5500000, mark := none, rejectReason := none }

/-- A RELAY record toward station 12 on side A. -/
def own (n : Nat) (role : Role) : Record :=
  { fwd n with
    origin := .relay role, kind := role.kind, source := 900, destination := 12, inSide := .a, outSide := .a }

/-- The relay with records of one cell. -/
def holding (rs : List Record) : State := { base with records := rs, free := 384 - rs.length }

/-- Port B in DEFER with a choice. -/
def deferring (c : Choice) (s : State) : State :=
  { s with portB := { up with state := .defer, choice := some c, deferral := some 1 } }

/-- Port B in SENDING with a choice and a loss count. -/
def sending (c : Choice) (losses : Nat) (s : State) : State :=
  { s with
    portB := { up with
      state := .sending, choice := some c, lossCount := losses, deferral := some (deferralOf losses), txd := [0x32] } }

/-- Port B awaiting the reply to a record since the moment 400000. -/
def awaiting (n : Nat) (s : State) : State :=
  { s with portB := { up with state := .awaitReply, awaited := some n, replyTimer := .running 400000 } }

/-- Port A sending a reply, from IDLE. -/
def replying (kind : ReplyKind) : State :=
  { base with
    portA := { up with
      state := .replying, returnState := some .idle, reply := some { addressee := 12, seq := 5#4, kind := kind }, txd := [1] } }

/-- Port A DOWN. -/
def downA : State := { base with portA := { up with state := .down } }

/-- A plain telegram in a queue toward side B. -/
def entry (kind : Kind) : PlainEntry :=
  { inSide := .a, telegram := { dst := 2047, src := 12, kind := kind, seq := 3#4, payload := [] } }

/-- The relay with plain telegrams for side B. -/
def queued (es : List PlainEntry) : State := { base with queueB := es, free := 384 - es.length }

/-- A request from station 12 on side A. -/
def request (payload : List Byte) : Request := { station := 12, side := .a, seq := 9#4, payload := payload }

/-- The relay whose queue has just got this head. -/
def headed (payload : List Byte) (s : State) : State :=
  { s with requests := [request payload], headDue := true, free := s.free - 1 }

/-- An open session of a station, with one staged entry. -/
def session (holder : Nat) : Session :=
  { holder := holder, side := .b, lease := 30, leaseEnd := 900000
    staged := {
      entries := [{ station := 407, side := .b, admitPlain := true, admitConfirmed := true, manage := false }]
      groupsAB := 5#63, groupsBA := 6#63, params := Params.defaults .forward } }

/-- The relay with an open session. -/
def opened (holder : Nat) : State := { base with session := some (session holder) }

/-- A LOADED entry of a station on side A. -/
def loaded (station : Nat) (manage : Bool) : StationEntry :=
  { station := station, side := .a, origin := .loaded, admitPlain := true, admitConfirmed := true, manage := manage }

/-- A telegram of a station on side A. -/
def telegram (kind : Kind) (dst : Nat) (payload : List Byte) : Telegram :=
  { dst := dst, src := 12, kind := kind, seq := 5#4, payload := payload }

/-- The state after a command. -/
def after (c : Instr) (s : State) : State :=
  match exec c s with
  | .next t => t
  | .fault _ => State.reset
  | .refused _ => State.reset

/-- The state after the reception of a telegram on side A. -/
def received (t : Telegram) (s : State) : State := after (.receptionEnd 10 .a t.toLine) s

/-- The payload of the response in descriptor 0. -/
def response (c : Instr) (s : State) : Option (List Byte) := ((after c s).record? 0).map Record.payload

/-! ## Well-formed commands -/

theorem test_wellFormed_refuses_holdEnd_64 : (Instr.holdEnd 64).wellFormed = false := by decide
theorem test_wellFormed_takes_holdEnd_63 : (Instr.holdEnd 63).wellFormed = true := by decide
theorem test_wellFormed_refuses_lifetimeExpiry_64 : (Instr.lifetimeExpiry 64).wellFormed = false := by decide
theorem test_wellFormed_refuses_dupHoldExpiry_of_none : (Instr.dupHoldExpiry 0).wellFormed = false := by decide
theorem test_wellFormed_refuses_dupHoldExpiry_of_group : (Instr.dupHoldExpiry 1984).wellFormed = false := by decide
theorem test_no_word_spells_a_command : decodeTableWord 8 0 = none := by decide

/-! ## Telegrams (R7, R184) -/

/-- R7's note. -/
theorem test_checkWord_of_R7 : checkWord [49, 50, 51, 52, 53, 54, 55, 56, 57] = 10673#16 := by decide +kernel
/-- DST 407 is 00110010111, SRC 12 is 00000001100, CDATA 0010, SEQ 0101, reserved 00, LEN 00000010. -/
theorem test_header_bits :
    headerBytes { dst := 407, src := 12, kind := .cdata, seq := 5#4, payload := [1, 2] } = [0x32, 0xE0, 0x30, 0x94, 0x02] := by
  decide +kernel
theorem test_parse_header :
    parseBody [0x32, 0xE0, 0x30, 0x94, 0x02, 1, 2]
      = some { dst := 407, src := 12, kind := .cdata, seq := 5#4, payload := [1, 2] } := by
  decide +kernel
theorem test_reserved_bit_is_a_format_error : parseBody [0x32, 0xE0, 0x30, 0x95, 0x02, 1, 2] = none := by decide +kernel
theorem test_kind_0_is_a_format_error : parseBody [0x32, 0xE0, 0x30, 0x14, 0x02, 1, 2] = none := by decide +kernel

/-! ## The lines -/

theorem test_hardwareReset_samples_the_straps :
    (after (.hardwareReset 5 { station := 908#11, rate := 2#2, start := false }) base).own = 908
      ∧ (after (.hardwareReset 5 { station := 908#11, rate := 2#2, start := false }) base).latched = 0x0001#16
      ∧ (after (.hardwareReset 5 { station := 908#11, rate := 2#2, start := false }) base).params.mode = .isolate
      ∧ (after (.hardwareReset 5 { station := 0#11, rate := 2#2, start := false }) base).own = 1983 := by
  decide +kernel
theorem test_resetNLow_short_pulse : (after (.resetNLow 0 9) base).held = false := by decide +kernel
theorem test_resetNLow_holds : (after (.resetNLow 0 10) base).held = true := by decide +kernel
theorem test_lineOkChange_restarts_the_measure :
    (after (.lineOkChange 7 .b false) base).portB.lineOkSince = 500007 := by decide +kernel
theorem test_lineDown_latches :
    (after (.lineDown .b) { base with portB := { up with lineOk := false } }).latched = 0x0009#16 := by decide +kernel
theorem test_lineDown_flushes :
    (after (.lineDown .b) { queued [entry .pdata] with portB := { up with lineOk := false } }).counter (.plainDropped .b)
      = 1#32 := by
  decide +kernel
theorem test_lineUp_latches : (after (.lineUp .a) downA).latched = 0x0011#16 := by decide +kernel
theorem test_lineActivityStart_holds_the_reply_timer :
    (after (.lineActivityStart 5 .b) (awaiting 0 { holding [{ fwd 0 with state := .awaiting }] with now := 400900 })).portB.replyTimer
      = .held := by
  decide +kernel
theorem test_quietWaitComplete_starts_at_64_bits :
    (after (.quietWaitComplete .b) (deferring (.record 0) (holding [{ fwd 0 with state := .sending }]))).portB.txd.take 5
      = [0x32, 0xE0, 0x30, 0x94, 0x02] := by
  decide +kernel
theorem test_contentionLoss_defers :
    (after (.contentionLoss 5 .b) (sending .plain 3 (queued [entry .pdata]))).portB.deferral = some 16 := by
  decide +kernel
theorem test_contentionLoss_16th_drops :
    (after (.contentionLoss 5 .b) (sending .plain 15 (queued [entry .pdata]))).free = 384 := by decide +kernel
theorem test_transmitDone_awaits :
    (after (.transmitDone 5 .b) (sending (.record 0) 0 (holding [{ fwd 0 with state := .sending }]))).portB.replyTimer
      = .running 500005 := by
  decide +kernel
theorem test_transmitDone_of_sreset_resets_side_B :
    (after (.transmitDone 5 .b) (sending .plain 0 (queued [entry .sreset]))).latched = 0x0081#16 := by decide +kernel
theorem test_replyTimerExpiry_counts_an_attempt :
    ((after (.replyTimerExpiry .b) (awaiting 0 (holding [{ fwd 0 with state := .awaiting }]))).record? 0).map Record.attempts
      = some 1 := by
  decide +kernel
theorem test_replySent_counts_busy : (after (.replySent 5 .a) (replying .busy)).counter (.busyGiven .a) = 1#32 := by
  decide +kernel
theorem test_receptionEnd_takes_custody :
    ((received (telegram .cdata 407 [1, 2]) base).record? 0).map Record.destination = some 407
      ∧ (received (telegram .cdata 407 [1, 2]) base).portA.state = .replying
      ∧ (received (telegram .cdata 407 [1, 2]) base).portB.choice = some (.record 0) := by
  decide +kernel
theorem test_receptionEnd_no_service :
    ((received (telegram .cdata 900 []) base).portA.reply).map Reply.kind = some (.final (.reject .noService)) := by
  decide +kernel

/-! ## Timers -/

theorem test_holdEnd_queues_and_chooses :
    (after (.holdEnd 0) (holding [{ fwd 0 with state := .waiting 540000 }])).portB.choice = some (.record 0) := by
  decide +kernel
theorem test_lifetimeExpiry_makes_a_notice :
    ((after (.lifetimeExpiry 0) (holding [{ fwd 0 with state := .waiting 9000000 }])).record? 0).map Record.payload
      = some [0x01, 0x97, 0x05, 0x02, 0x05, 0x00, 0x00] := by
  decide +kernel
theorem test_agingTick_at_the_limit :
    (after .agingTick { base with stations := [{ loaded 12 false with origin := .learned 299 }, loaded 13 false] }).stations
      = [loaded 13 false] := by
  decide +kernel
theorem test_dupHoldExpiry_removes :
    (after (.dupHoldExpiry 12)
      { base with dups := [{ source := 12, seq := 5#4, arrivalSide := .a, reply := .ack, lastUse := 400000 }] }).dups = [] := by
  decide +kernel
theorem test_leaseExpiry_latches : (after .leaseExpiry (opened 12)).latched = 0x0101#16 := by decide +kernel
theorem test_eventRepeatExpiry_sends_again :
    ((after .eventRepeatExpiry
      { base with
        eventStation := some (12, .a), reported := 0x0001#16, repeatTimer := .running 600000 }).record? 0).map Record.payload
      = some [0x00, 0x00, 0x00, 0x01] := by
  decide +kernel
theorem test_eventClaimGranted_creates :
    ((after .eventClaimGranted
      { base with eventStation := some (12, .a), eventClaim := true, claimsDue := true }).record? 0).map Record.kind
      = some .event := by
  decide +kernel

/-! ## Commands of the head request; a response is tag, request SEQ, command, outcome, results -/

theorem test_malformedRequest_too_short : response .malformedRequest (headed [7] base) = some [7, 0, 9, 0, 7] := by
  decide +kernel
theorem test_responseClaimGranted_executes :
    response .responseClaimGranted { headed [1, 2, 0x31, 0, 1] base with headDue := false, respClaim := true, claimsDue := true }
      = some [1, 2, 9, 0x31, 0] := by
  decide +kernel
theorem test_identify :
    response .identify (headed [1, 2, 0x01] base)
      = some [1, 2, 9, 0x01, 0, 0x07, 0x31, 0x02, 0x30, 0x01, 0x03, 0x84, 0x01, 0, 0, 0, 0, 0, 0x01, 0x7F, 0] := by
  decide +kernel
theorem test_readStations_lists :
    response .readStations (headed [1, 2, 0x02, 0, 13, 1] { base with stations := [loaded 12 false, loaded 13 true, loaded 14 false] })
      = some [1, 2, 9, 0x02, 0, 0, 13, 1, 1, 0, 13, 0, 0, 1, 1, 1, 0xFF, 0xFF] := by
  decide +kernel
theorem test_readConfig_no_session :
    response .readConfig (headed [1, 2, 0x03, 1, 0, 0, 0] base) = some [1, 2, 9, 0x03, 0x04] := by decide +kernel
theorem test_readCounters_clears :
    (after .readCounters (headed [1, 2, 0x04, 16, 1, 1] (count .custodyAccepted base))).counter .custodyAccepted = 0#32
      ∧ response .readCounters (headed [1, 2, 0x04, 16, 1, 1] (count .custodyAccepted base))
        = some [1, 2, 9, 0x04, 0, 16, 1, 0, 0, 0, 1] := by
  decide +kernel
theorem test_readCustody_counts_none :
    response .readCustody (headed [1, 2, 0x05, 0, 8] base) = some [1, 2, 9, 0x05, 0, 0, 0, 0] := by decide +kernel
theorem test_readEvents :
    response .readEvents (headed [1, 2, 0x06] base) = some [1, 2, 9, 0x06, 0, 0, 1, 0xFF, 0xFF, 0, 0, 0, 0, 0xFF, 0] := by
  decide +kernel
theorem test_openSession_default_lease :
    response .openSession (headed [1, 2, 0x10] base) = some [1, 2, 9, 0x10, 0, 0, 0, 30] := by decide +kernel
theorem test_openSession_held :
    response .openSession (headed [1, 2, 0x10] (opened 13)) = some [1, 2, 9, 0x10, 2, 0, 13] := by decide +kernel
theorem test_closeSession : (after .closeSession (headed [1, 2, 0x11] (opened 12))).session = none := by decide +kernel
theorem test_closeSession_not_holder :
    response .closeSession (headed [1, 2, 0x11] (opened 13)) = some [1, 2, 9, 0x11, 3] := by decide +kernel
theorem test_stageStation_in_order :
    ((after .stageStation (headed [1, 2, 0x12, 0, 13, 0, 1, 0, 1] (opened 12))).session.map
      (fun c => c.staged.entries.map StagedEntry.station)) = some [13, 407] := by
  decide +kernel
theorem test_unstageStation_not_found :
    response .unstageStation (headed [1, 2, 0x13, 0, 13] (opened 12)) = some [1, 2, 9, 0x13, 9] := by decide +kernel
theorem test_stageGroups_refuses_bit_63 :
    response .stageGroups (headed [1, 2, 0x14, 0, 0x80, 0, 0, 0, 0, 0, 0, 0] (opened 12)) = some [1, 2, 9, 0x14, 7, 1] := by
  decide +kernel
theorem test_stageParams_later_pair_wins :
    ((after .stageParams (headed [1, 2, 0x15, 0x09, 0, 3, 0x09, 0, 15] (opened 12))).session.map
      (fun c => c.staged.params.retryLimit)) = some 15 := by
  decide +kernel
theorem test_stageParams_bad_pair :
    response .stageParams (headed [1, 2, 0x15, 0x09, 0, 3, 0x09, 0, 16] (opened 12)) = some [1, 2, 9, 0x15, 7, 1] := by
  decide +kernel
theorem test_commit :
    response .commit (headed [1, 2, 0x16, 0, 0, 1] (opened 12)) = some [1, 2, 9, 0x16, 0, 0, 1, 1]
      ∧ (after .commit (headed [1, 2, 0x16, 0, 0, 1] (opened 12))).stations.map StationEntry.station = [407] := by
  decide +kernel
theorem test_commit_after_65535 :
    (after .commit (headed [1, 2, 0x16, 0xFF, 0xFF, 0] { opened 12 with epoch := 0xFFFF#16 })).epoch = 1#16 := by
  decide +kernel
theorem test_purge_counts :
    ((after .purge (headed [1, 2, 0x20, 0xFF, 0xFF] (holding [{ fwd 0 with state := .waiting 9000000 }]))).record? 1).map
      Record.payload = some [1, 2, 9, 0x20, 0, 1, 0] := by
  decide +kernel
theorem test_restart_names_its_response :
    (after .restart (headed [1, 2, 0x21, 0] base)).restart = some { kind := .queues, record := 0 } := by decide +kernel
theorem test_restartQueues_counts_custody :
    (after .restartQueues
      { holding [fwd 0] with restart := some { kind := .queues, record := 1 }, restartDue := true }).counter .custodyDiscarded
      = 1#32 := by
  decide +kernel
theorem test_restartFull_samples :
    (after (.restartFull { station := 7#11, rate := 0#2, start := true })
      { base with restart := some { kind := .full, record := 1 }, restartDue := true }).own = 7 := by
  decide +kernel
theorem test_setEventStation :
    (after .setEventStation (headed [1, 2, 0x30, 0, 12] base)).eventStation = some (12, .a) := by decide +kernel
theorem test_setEventMask : (after .setEventMask (headed [1, 2, 0x31, 0x12, 0x34] base)).mask = 0x1234#16 := by
  decide +kernel
theorem test_clearEvents : (after .clearEvents (headed [1, 2, 0x32, 0, 1] base)).latched = 0#16 := by decide +kernel

/-- The event that a COMMIT latches is sent after the request behind it has executed (R155, part 6 and after). -/
theorem test_event_after_the_new_head :
    let s : State :=
      { headed [1, 2, 0x16, 0, 0, 0] (opened 12) with
        requests := [request [1, 2, 0x16, 0, 0, 0], request [3, 4, 0x01]], eventStation := some (12, .a), reported := 1#16 }
    let t := after .identify (after .commit s)
    ((after .commit s).records.map Record.kind, t.records.map Record.kind) = ([.mrsp], [.mrsp, .mrsp, .event]) := by
  decide +kernel

/-! ## States that meet the hypotheses of the statements -/

/-- The relay with a restart to be carried out. -/
def restarting (kind : RestartKind) : State :=
  { base with restart := some { kind := kind, record := 1 }, restartDue := true }

/-- A plain PDATA of 240 bytes. -/
def longest : Telegram := { telegram .pdata 2047 (List.replicate 240 0x55) with src := 1983 }

theorem test_witness_StepTakesTheFront :
    ({ base with pending := [.agingTick] } : State).pending = [.agingTick] ∧ base.pending = [] := by decide +kernel
/-- A due step of each sort with its own command, and commands that are not its own. -/
theorem test_witness_EveryCommandCompletes :
    (headed [1, 2, 0x10] base).executing (request [1, 2, 0x10]) [] ∧ executes .openSession = some (request [1, 2, 0x10]).command
      ∧ (request [1, 2, 0x10]).command ≠ some .commit ∧ executes .agingTick = none ∧ executes .commit ≠ none
      ∧ (restarting .queues).due = some (.restart .queues) ∧ (restarting .full).due = some (.restart .full)
      ∧ base.due = none
      ∧ ({ headed [1, 2, 0x31, 0, 1] base with headDue := false, respClaim := true, claimsDue := true } : State).due
        = some .responseClaim
      ∧ ({ base with eventStation := some (12, .a), eventClaim := true, claimsDue := true } : State).due
        = some .eventClaim := by
  simp only [State.executing]
  decide +kernel
/-- What is due happens before the tick, and before a command that stands for another. -/
theorem test_due_comes_first :
    (after .agingTick (headed [1, 2, 0x10] base)).session.isSome = true
      ∧ (after .commit (headed [1, 2, 0x10] base)).session.isSome = true
      ∧ (after (.lineOkChange 3 .a true) (restarting .queues)).restart = none := by
  decide +kernel
theorem test_witness_TelegramRoundTrip :
    (fieldsOk 0#2 longest.payload.length longest = true ∧ longest.dst ≤ 2047)
      ∧ fieldsOk 0#2 0 { telegram .ack 1 [] with src := 1 } = true := by
  decide +kernel
theorem test_witness_ReceptionIsATelegram :
    checkReception (telegram .pdata 2047 [1, 2, 3]).toLine = .wellFormed (telegram .pdata 2047 [1, 2, 3])
      ∧ checkReception (telegram .ack 900 []).toLine = .wellFormed (telegram .ack 900 [])
      ∧ (telegram .ack 900 []).toLine.length = 7 := by
  decide +kernel
theorem test_witness_HardwareReset :
    (1#11).toNat = 1 ∧ (1983#11).toNat = 1983 ∧ (0#11).toNat = 0 ∧ (1984#11).toNat = 1984 ∧ base.due = none := by
  decide +kernel
theorem test_witness_ResetPin : base.due = none ∧ ({ base with held := true } : State).held = true := by decide +kernel
theorem test_witness_RestartQueues :
    (restarting .queues).held = false ∧ (restarting .queues).restartDue = true
      ∧ (restarting .queues).restart = some { kind := .queues, record := 1 }
      ∧ ((restarting .queues).port .a).state ≠ .down ∧ (downA.port .a).state = .down := by
  decide +kernel
theorem test_witness_RestartFull :
    (restarting .full).held = false ∧ (restarting .full).restartDue = true
      ∧ (restarting .full).restart = some { kind := .full, record := 1 } := by
  decide +kernel
theorem test_witness_LineOkChange : base.due = none := by decide +kernel

/-- Port B up, its LINE_OK low, having chosen record 0 with this mark. -/
def failing (mark : Option Mark) : State :=
  let s := deferring (.record 0) (holding [{ fwd 0 with state := .sending, mark := mark }])
  { s with portB := { s.portB with lineOk := false } }

theorem test_witness_LineDown :
    (failing none).ready = true ∧ (failing none).numbered = true ∧ ((failing none).port .b).state ≠ .down
      ∧ ((failing none).port .b).lineOk = false ∧ ((failing none).port .b).heldRecord = some 0
      ∧ ((failing none).record? 0).map Record.mark = some none := by
  decide +kernel
theorem test_witness_LineDown_marked :
    (failing (some .purged)).ready = true ∧ (failing (some .purged)).numbered = true
      ∧ ((failing (some .purged)).port .b).state ≠ .down ∧ ((failing (some .purged)).port .b).lineOk = false
      ∧ ((failing (some .purged)).port .b).heldRecord = some 0
      ∧ ((failing (some .purged)).record? 0).map Record.mark = some (some .purged) := by
  decide +kernel
theorem test_witness_LineDown_queues :
    base.queue .b = [] ∧ (queued [entry .pdata]).queue .b ≠ []
      ∧ (flushQueue .b (queued [entry .pdata, entry .pdata])).counter (.plainDropped .b) = 2#32
      ∧ (awaiting 3 base).portB.heldRecord = some 3 ∧ (deferring .plain base).portB.heldRecord = none := by
  decide +kernel
theorem test_witness_LineUp :
    downA.ready = true ∧ downA.numbered = true ∧ (downA.port .a).state = .down ∧ (downA.port .a).lineOk = true := by
  decide +kernel
theorem test_witness_LineActivityStart :
    base.ready = true ∧ (base.port .a).state = .idle ∧ (deferring .plain base).ready = true
      ∧ ((deferring .plain base).port .b).state = .defer
      ∧ (awaiting 0 { base with now := 400900 }).ready = true
      ∧ ((awaiting 0 { base with now := 400900 }).port .b).state = .awaitReply
      ∧ ((awaiting 0 { base with now := 400900 }).port .b).replyTimer = .running 400000
      ∧ (awaiting 0 { base with now := 400900 }).now + 60 = 400000 + 120 * base.bitTime
      ∧ 400000 + 120 * base.bitTime < (awaiting 0 { base with now := 400900 }).now + 61
      ∧ ({ awaiting 0 base with portB := { up with state := .awaitReply, awaited := some 0, replyTimer := .held } } : State).ready
        = true
      ∧ (replying .busy).ready = true ∧ ((replying .busy).port .a).state = .replying
      ∧ downA.ready = true ∧ (downA.port .a).state = .down
      ∧ (sending .plain 0 base).ready = true ∧ ((sending .plain 0 base).port .b).state = .sending := by
  decide +kernel
theorem test_witness_QuietWaitComplete :
    let s := deferring (.record 0) (holding [{ fwd 0 with state := .sending }])
    s.ready = true ∧ (s.port .b).state = .defer ∧ (s.port .b).staging = .empty ∧ (s.port .b).deferral = some 1
      ∧ s.chosenTelegram .b = some (fwd 0).telegram := by
  decide +kernel
theorem test_witness_QuietWaitComplete_choices :
    let s := deferring .plain (queued [entry .pdata])
    s.ready = true ∧ (s.port .b).choice = some .plain ∧ s.queue .b = [entry .pdata]
      ∧ s.chosenTelegram .b = some (entry .pdata).telegram ∧ (base.port .b).choice = none ∧ base.chosenTelegram .b = none
      ∧ ({ base with rate := 0#2 } : State).bitTime = 16 ∧ base.rate = 1#2 ∧ base.bitTime = 8
      ∧ ({ base with rate := 2#2 } : State).bitTime = 4 ∧ ({ base with rate := 3#2 } : State).bitTime = 2 := by
  decide +kernel

/-- Port B sending record 0 with this mark after so many losses. -/
def contending (mark : Option Mark) (losses : Nat) : State :=
  sending (.record 0) losses (holding [{ fwd 0 with state := .sending, mark := mark }])

theorem test_witness_ContentionLoss :
    (contending none 14).ready = true ∧ (contending none 14).numbered = true
      ∧ ((contending none 14).port .b).state = .sending ∧ ((contending none 14).port .b).lossCount + 1 < 16
      ∧ ((contending none 14).record? 0).map Record.mark = some none
      ∧ (contending (some .expired) 14).ready = true ∧ (contending (some .expired) 14).numbered = true
      ∧ ((contending (some .expired) 14).port .b).state = .sending
      ∧ ((contending (some .expired) 14).record? 0).map Record.mark = some (some .expired)
      ∧ ((contending (some .expired) 14).port .b).choice = some (.record 0)
      ∧ (base.port .b).state ≠ .sending := by
  decide +kernel
theorem test_witness_ContentionGiveUp :
    (contending none 15).ready = true ∧ (contending none 15).numbered = true
      ∧ ((contending none 15).port .b).state = .sending ∧ 15 ≤ ((contending none 15).port .b).lossCount
      ∧ ((contending none 15).port .b).choice = some (.record 0)
      ∧ (contending none 15).record? 0 = some { fwd 0 with state := .sending }
      ∧ (sending .plain 15 (queued [entry .pdata])).ready = true
      ∧ (sending .plain 15 (queued [entry .pdata])).numbered = true
      ∧ ((sending .plain 15 (queued [entry .pdata])).port .b).state = .sending
      ∧ ((sending .plain 15 (queued [entry .pdata])).port .b).choice = some .plain
      ∧ (sending .plain 15 (queued [entry .pdata])).queue .b = [entry .pdata] := by
  decide +kernel
theorem test_witness_TransmitDoneOfARecord :
    (contending none 0).ready = true ∧ ((contending none 0).port .b).state = .sending
      ∧ ((contending none 0).port .b).choice = some (.record 0) := by
  decide +kernel
theorem test_witness_TransmitDoneOfAPlainTelegram :
    (sending .plain 0 (queued [entry .pdata])).ready = true ∧ (sending .plain 0 (queued [entry .pdata])).numbered = true
      ∧ ((sending .plain 0 (queued [entry .pdata])).port .b).state = .sending
      ∧ (sending .plain 0 (queued [entry .pdata])).queue .b = [entry .pdata] ∧ (entry .pdata).telegram.kind ≠ .sreset
      ∧ (sending .plain 0 (queued [entry .sreset])).queue .b = [entry .sreset]
      ∧ (entry .sreset).telegram.kind = .sreset := by
  decide +kernel
theorem test_witness_ReplySent :
    (replying .busy).ready = true ∧ (replying .busy).numbered = true ∧ ((replying .busy).port .a).state = .replying
      ∧ ((replying .busy).port .a).reply = some { addressee := 12, seq := 5#4, kind := .busy }
      ∧ ((replying (.final .ack)).port .a).reply = some { addressee := 12, seq := 5#4, kind := .final .ack }
      ∧ ((replying (.final (.reject .pathDown))).port .a).reply
        = some { addressee := 12, seq := 5#4, kind := .final (.reject .pathDown) } := by
  decide +kernel

/-- Port B awaiting the reply to record 0. -/
def awaited : State := awaiting 0 (holding [{ fwd 0 with state := .awaiting }])

theorem test_witness_ReplyTimerExpiry :
    awaited.ready = true ∧ awaited.numbered = true ∧ (awaited.port .b).state = .awaitReply
      ∧ (awaited.port .b).replyTimer = .running 400000 ∧ (awaited.port .b).awaited = some 0
      ∧ awaited.record? 0 = some { fwd 0 with state := .awaiting } := by
  decide +kernel
theorem test_witness_ArbiterAlternates :
    (holding [fwd 0]).numbered = true ∧ ((holding [fwd 0]).port .b).state = .idle
      ∧ (holding [fwd 0]).candidate .b = some (fwd 0) ∧ (holding [fwd 0]).queue .b = []
      ∧ (queued [entry .pdata]).numbered = true ∧ ((queued [entry .pdata]).port .b).state = .idle
      ∧ (queued [entry .pdata]).queue .b ≠ [] ∧ (queued [entry .pdata]).candidate .b = none
      ∧ base.numbered = true ∧ base.candidate .b = none ∧ base.queue .b = []
      ∧ ((contending none 0).port .b).state ≠ .idle := by
  decide +kernel

/-! ### Receptions -/

/-- A source without an entry gets no duplicate answer. -/
theorem isNew_of_none {s : State} {src : Nat} {seq : BitVec 4} (h : s.dup? src = none) : s.isNew src seq := by
  intro e he
  rw [h] at he
  cases he

/-- Station 407 as known on side B. -/
def knownB (admitted : Bool) : StationEntry :=
  { station := 407, side := .b, origin := .learned 4, admitPlain := admitted, admitConfirmed := admitted, manage := false }

/-- Seven bytes with a false check word, and with a right one over a KIND of 0. -/
def falseCheck : List Byte := [0x32, 0xE0, 0x30, 0x94, 0x00, 0, 0]

theorem test_witness_DiscardedReception :
    base.ready = true ∧ base.numbered = true ∧ base.receives .a ∧ (List.replicate 6 (0 : Byte)).length < 7
      ∧ 247 < (List.replicate 248 (0 : Byte)).length
      ∧ beNat (falseCheck.drop (falseCheck.length - 2)) ≠ (checkWord (falseCheck.take (falseCheck.length - 2))).toNat
      ∧ parseBody [0x32, 0xE0, 0x30, 0x14, 0x00] = none
      ∧ awaited.ready = true ∧ awaited.numbered = true ∧ (awaited.port .b).awaited = some 0
      ∧ awaited.record? 0 = some { fwd 0 with state := .awaiting }
      ∧ (awaited.port .b).state = .awaitReply ∧ (awaited.port .b).staging ≠ .passedOver := by
  simp only [State.receives]
  decide +kernel
theorem test_witness_DiscardedReception_well_checked :
    let body : List Byte := [0x32, 0xE0, 0x30, 0x14, 0x00]
    let bytes := body ++ beBytes 2 (checkWord body).toNat
    7 ≤ bytes.length ∧ bytes.length ≤ 247
      ∧ beNat (bytes.drop (bytes.length - 2)) = (checkWord (bytes.take (bytes.length - 2))).toNat
      ∧ parseBody (bytes.take (bytes.length - 2)) = none := by
  decide +kernel

/-- Port A quiet again after a reply, the activity that began meanwhile still on its line. -/
def passing : State := { base with portA := { up with staging := .passedOver } }

theorem test_witness_DiscardedReception_passed_over :
    (replying .busy).ready = true ∧ ((replying .busy).port .a).state = .replying
      ∧ passing.ready = true ∧ (passing.port .a).staging = .passedOver ∧ (passing.port .a).state = .idle
      ∧ downA.ready = true ∧ (downA.port .a).state = .down
      ∧ (contending none 0).ready = true ∧ ((contending none 0).port .b).state = .sending := by
  decide +kernel
theorem test_witness_DiscardedArrivals :
    checkReception (telegram .pdata 407 []).toLine = .wellFormed (telegram .pdata 407 []) ∧ base.receives .b
      ∧ ({ base with stations := [loaded 12 false] } : State).ready = true
      ∧ ({ base with stations := [loaded 12 false] } : State).numbered = true
      ∧ ({ base with stations := [loaded 12 false] } : State).receives .b
      ∧ ({ base with stations := [loaded 12 false] } : State).lookup 12 = some (loaded 12 false)
      ∧ (loaded 12 false).side ≠ .b ∧ ({ base with own := 12 } : State).own = (telegram .pdata 407 []).src
      ∧ checkReception (telegram .ack 407 []).toLine = .wellFormed (telegram .ack 407 [])
      ∧ (telegram .ack 407 []).src ≠ base.own ∧ base.lookup 12 = none ∧ (telegram .ack 407 []).kind.isReply = true := by
  simp only [State.receives]
  decide +kernel

/-- A reply of station 407 to the record's source. -/
def answer (kind : Kind) (seq : BitVec 4) (payload : List Byte) : Telegram :=
  { dst := 12, src := 407, kind := kind, seq := seq, payload := payload }

theorem test_witness_SlotArrival :
    awaited.ready = true ∧ awaited.numbered = true
      ∧ checkReception (answer .ack 5#4 []).toLine = .wellFormed (answer .ack 5#4 [])
      ∧ checkReception (answer .busy 5#4 []).toLine = .wellFormed (answer .busy 5#4 [])
      ∧ checkReception (answer .reject 5#4 [0xFF]).toLine = .wellFormed (answer .reject 5#4 [0xFF])
      ∧ checkReception (answer .ack 6#4 []).toLine = .wellFormed (answer .ack 6#4 [])
      ∧ checkReception (answer .cdata 5#4 []).toLine = .wellFormed (answer .cdata 5#4 [])
      ∧ (awaited.quiet .b 0).sourceConflict .b 407 = false ∧ (awaited.port .b).state = .awaitReply
      ∧ (awaited.port .b).staging ≠ .passedOver ∧ (awaited.port .b).awaited = some 0
      ∧ (awaited.learned .b 0 407).record? 0 = some { fwd 0 with state := .awaiting } := by
  decide +kernel
theorem test_witness_Learning :
    ascending StationEntry.station base.stations = true ∧ base.params.mode = .forward ∧ base.params.learn = true
      ∧ base.lookup 12 = none ∧ base.stations.length < 256
      ∧ ({ base with stations := [knownB true] } : State).lookup 407 = some (knownB true)
      ∧ ({ base with stations := [loaded 12 false] } : State).lookup 12 = some (loaded 12 false)
      ∧ ({ base with params := Params.defaults .isolate } : State).params.mode = .isolate
      ∧ 256 ≤ ({ base with stations := (List.range 256).map (fun i => loaded (i + 1) false) } : State).stations.length
      ∧ ascending StationEntry.station ((List.range 256).map (fun i => loaded (i + 1) false)) = true := by
  decide +kernel
theorem test_witness_Learning_move :
    let s : State := { holding [fwd 0] with stations := [knownB true] }
    s.numbered = true ∧ s.lookup 407 = some (knownB true) ∧ (knownB true).side ≠ .a
      ∧ ((learn .a 407 s).record? 0).map Record.payload = some [0x01, 0x97, 0x05, 0x02, 0x07, 0x00, 0x00] := by
  decide +kernel
theorem test_witness_CustodyAcceptance :
    base.ready = true ∧ base.numbered = true ∧ base.receives .a
      ∧ checkReception (telegram .cdata 407 []).toLine = .wellFormed (telegram .cdata 407 [])
      ∧ (base.quiet .a 0).sourceConflict .a 12 = false ∧ (base.learned .a 0 12).handsOver .a 407 true
      ∧ (base.learned .a 0 12).isNew 12 5#4 ∧ ((base.learned .a 0 12).port .b).state ≠ .down
      ∧ 5 ≤ (base.learned .a 0 12).freeDescriptors ∧ cellsFor 0 + 8 ≤ (base.learned .a 0 12).free := by
  refine ⟨by decide +kernel, by decide +kernel, ?_, by decide +kernel, by decide +kernel, ?_, ?_, by decide +kernel,
    by decide +kernel, by decide +kernel⟩
  · exact ⟨by decide +kernel, by decide +kernel⟩
  · exact ⟨by decide +kernel, by decide +kernel, .inr (by decide +kernel)⟩
  · exact isNew_of_none (by decide +kernel)

/-- The relay with 59 records, five descriptors free, and with 60. -/
def crowded (n : Nat) : State := holding ((List.range n).map fwd)

theorem test_witness_CustodyAcceptance_room :
    (crowded 59).freeDescriptors = 5 ∧ (crowded 60).freeDescriptors = 4 ∧ (crowded 59).numbered = true
      ∧ ({ base with free := 9 } : State).free = cellsFor 0 + 8 ∧ ({ base with free := 8 } : State).free < cellsFor 0 + 8
      ∧ (({ base with portB := { up with state := .down } } : State).port .b).state = .down := by
  decide +kernel
theorem test_witness_CustodyAcceptance_cells :
    (cellsFor 0 = 1 ∧ cellsFor 56 = 1) ∧ (cellsFor 57 = 2 ∧ cellsFor 120 = 2) ∧ (cellsFor 121 = 3 ∧ cellsFor 184 = 3)
      ∧ (cellsFor 185 = 4 ∧ cellsFor 240 = 4) ∧ (claimCells 1 { base with free := 32 }).latched = 0x2001#16
      ∧ (claimCells 1 { base with free := 33 }).latched = 0x0001#16 := by
  decide +kernel
theorem test_witness_CustodyAcceptance_duplicate :
    let s : State := { base with dups := [{ source := 12, seq := 5#4, arrivalSide := .b, reply := .ack, lastUse := 400000 }] }
    (s.learned .a 0 12).dup? 12
      = some { source := 12, seq := 5#4, arrivalSide := .b, reply := .ack, lastUse := 400000 } := by
  decide +kernel
theorem test_witness_CustodyAcceptance_not_admitted :
    (({ base with stations := [knownB false] } : State).learned .a 0 12).handsOver .a 407 false := by
  refine ⟨by decide +kernel, by decide +kernel, .inl ⟨knownB false, ?_⟩⟩
  decide +kernel

/-- The relay with so many requests queued, the head's claim waiting. -/
def requested (n : Nat) : State :=
  { base with requests := List.replicate n (request [1, 2, 1]), respClaim := true, free := 384 - n }

/-- The relay with a restart pending whose response is still held. -/
def pendingRestart : State := { holding [own 0 .response] with restart := some { kind := .queues, record := 0 } }

theorem test_witness_RequestAcceptance :
    base.ready = true ∧ base.numbered = true ∧ base.receives .a
      ∧ checkReception (telegram .mreq 900 [1, 2, 1]).toLine = .wellFormed (telegram .mreq 900 [1, 2, 1])
      ∧ base.own = 900 ∧ (base.quiet .a 0).sourceConflict .a 12 = false ∧ (base.learned .a 0 12).isNew 12 5#4
      ∧ (base.learned .a 0 12).requests = [] ∧ (base.learned .a 0 12).restart = none
      ∧ cellsFor 3 ≤ (({ base with free := 1 } : State).learned .a 0 12).free := by
  refine ⟨by decide +kernel, by decide +kernel, ?_, by decide +kernel, rfl, by decide +kernel,
    isNew_of_none (by decide +kernel), by decide +kernel⟩
  exact ⟨by decide +kernel, by decide +kernel⟩
/-- Without room: no cell, four requests held, a restart pending. With three there is room. -/
theorem test_witness_RequestAcceptance_no_room :
    ({ base with free := 0 } : State).ready = true ∧ (({ base with free := 0 } : State).learned .a 0 12).free < cellsFor 3
      ∧ (requested 4).ready = true ∧ (requested 4).numbered = true ∧ ((requested 4).learned .a 0 12).requests.length = 4
      ∧ ((requested 3).learned .a 0 12).requests.length < 4
      ∧ pendingRestart.ready = true ∧ pendingRestart.numbered = true
      ∧ (pendingRestart.learned .a 0 12).restart = some { kind := .queues, record := 0 }
      ∧ ((received (telegram .mreq 900 [1, 2, 1]) (requested 4)).portA.reply).map Reply.kind = some .busy
      ∧ ((received (telegram .mreq 900 [1, 2, 1]) pendingRestart).portA.reply).map Reply.kind = some .busy
      ∧ (received (telegram .mreq 900 [1, 2, 1]) (requested 3)).requests.length = 4 := by
  decide +kernel
theorem test_witness_ChosenReply :
    base.ready = true ∧ base.numbered = true ∧ checkReception (telegram .notice 900 []).toLine = .wellFormed (telegram .notice 900 [])
      ∧ checkReception (telegram .mrsp 900 []).toLine = .wellFormed (telegram .mrsp 900 [])
      ∧ checkReception (telegram .cdata 407 []).toLine = .wellFormed (telegram .cdata 407 [])
      ∧ base.receives .a ∧ (base.quiet .a 0).sourceConflict .a 12 = false ∧ (base.learned .a 0 12).lookup 407 = none
      ∧ (base.learned .a 0 12).dup? 12 = none
      ∧ ({ base with params := { base.params with unknownPolicy := .reject } } : State).params.unknownPolicy = .reject := by
  simp only [State.receives]
  decide +kernel

/-- A duplicate table of 128 entries, the second of them unused longest. -/
def fullDups : State :=
  { base with
    dups := (List.range 128).map (fun i =>
      { source := i + 1, seq := 5#4, arrivalSide := .b, reply := .ack, lastUse := if i = 1 then 1 else 2 }) }

theorem test_witness_ChosenReply_table :
    ascending DupEntry.source fullDups.dups = true ∧ fullDups.dup? 407 = none ∧ 128 ≤ fullDups.dups.length
      ∧ (fullDups.dup? 12).isSome = true ∧ (base.dup? 12 = none ∧ base.dups.length < 128)
      ∧ (recordFinal .a (answer .cdata 5#4 []) .ack fullDups).dup? 2 = none := by
  decide +kernel
theorem test_witness_PlainCrossing :
    base.ready = true ∧ base.numbered = true
      ∧ checkReception (telegram .pdata 2047 []).toLine = .wellFormed (telegram .pdata 2047 [])
      ∧ checkReception (telegram .pdata 1984 []).toLine = .wellFormed (telegram .pdata 1984 [])
      ∧ checkReception (telegram .pdata 2046 []).toLine = .wellFormed (telegram .pdata 2046 [])
      ∧ (base.quiet .a 0).sourceConflict .a 12 = false
      ∧ (base.learned .a 0 12).broadcastSetting .a = .pass ∧ ((base.learned .a 0 12).passSet .a).getLsbD 0 = true
      ∧ ((base.learned .a 0 12).passSet .a).getLsbD 62 = true ∧ ((base.learned .a 0 12).port .b).state ≠ .down
      ∧ ((base.learned .a 0 12).queue .b).length < 48
      ∧ cellsFor 0 + base.params.plainReserve ≤ ({ base with free := 49 } : State).free
      ∧ ¬ cellsFor 0 + base.params.plainReserve ≤ ({ base with free := 48 } : State).free
      ∧ (base.learned .a 0 12).params.mode = .forward := by
  decide +kernel
/-- An individual DST: known on side B with admit plain, known without it, and unknown under PASS and under IGNORE. -/
theorem test_witness_PlainCrossing_individual :
    checkReception (telegram .pdata 407 []).toLine = .wellFormed (telegram .pdata 407 []) ∧ base.receives .a
      ∧ (({ base with stations := [knownB true] } : State).learned .a 0 12).passesPlain .a 407
      ∧ ¬ (({ base with stations := [knownB false] } : State).learned .a 0 12).passesPlain .a 407
      ∧ (base.learned .a 0 12).passesPlain .a 407
      ∧ ¬ ({ base with params := { base.params with unknownPolicy := .ignore } } : State).passesPlain .a 407 := by
  refine ⟨by decide +kernel, ⟨by decide +kernel, by decide +kernel⟩, ?_, ?_, ?_, ?_⟩
  · exact ⟨by decide +kernel, .inr (.inr (.inl ⟨by decide +kernel, knownB true, by decide +kernel⟩))⟩
  · rintro ⟨-, ⟨h, -⟩ | ⟨h, -⟩ | ⟨-, e, he, -, h⟩ | ⟨-, h, -⟩⟩
    · exact absurd h (by decide +kernel)
    · exact absurd h (by decide +kernel)
    · have hk : (({ base with stations := [knownB false] } : State).learned .a 0 12).lookup 407 = some (knownB false) := by
        decide +kernel
      rw [hk] at he
      cases he
      exact absurd h (by decide +kernel)
    · exact absurd h (by decide +kernel)
  · exact ⟨by decide +kernel, .inr (.inr (.inr (by decide +kernel)))⟩
  · rintro ⟨-, ⟨h, -⟩ | ⟨h, -⟩ | ⟨-, e, he, -⟩ | ⟨-, -, h⟩⟩
    · exact absurd h (by decide +kernel)
    · exact absurd h (by decide +kernel)
    · have hk : ({ base with params := { base.params with unknownPolicy := .ignore } } : State).lookup 407 = none := by
        decide +kernel
      rw [hk] at he
      cases he
    · exact absurd h (by decide +kernel)
/-- A queue of 48 has no place for another and one of 47 has; a DOWN port takes none. -/
theorem test_witness_PlainCrossing_no_place :
    let full := queued (List.replicate 48 (entry .pdata))
    let nearly := queued (List.replicate 47 (entry .pdata))
    let down : State := { base with portB := { up with state := .down } }
    full.ready = true ∧ full.numbered = true ∧ ((full.learned .a 0 12).queue .b).length = 48
      ∧ ((nearly.learned .a 0 12).queue .b).length < 48
      ∧ down.ready = true ∧ down.numbered = true ∧ ((down.learned .a 0 12).port .b).state = .down
      ∧ (received (telegram .pdata 407 []) full).counter (.plainDropped .b) = 1#32
      ∧ (received (telegram .pdata 407 []) down).counter (.plainDropped .b) = 1#32
      ∧ ((received (telegram .pdata 407 []) nearly).queue .b).length = 48 := by
  decide +kernel
theorem test_witness_SilentDiscards :
    base.ready = true ∧ base.numbered = true
      ∧ checkReception (telegram .cdata 407 []).toLine = .wellFormed (telegram .cdata 407 []) ∧ base.receives .a
      ∧ (base.quiet .a 0).sourceConflict .a 12 = false ∧ (telegram .cdata 407 []).dst ≠ base.own
      ∧ ({ base with params := Params.defaults .isolate } : State).params.mode = .isolate
      ∧ (({ base with stations := [loaded 407 false] } : State).learned .a 0 12).lookup 407 = some (loaded 407 false)
      ∧ (loaded 407 false).side = .a
      ∧ ({ base with params := { base.params with unknownPolicy := .ignore } } : State).params.unknownPolicy = .ignore := by
  simp only [State.receives]
  decide +kernel
theorem test_witness_SresetArrival :
    base.ready = true ∧ base.numbered = true
      ∧ checkReception (telegram .sreset 2047 []).toLine = .wellFormed (telegram .sreset 2047 []) ∧ base.receives .a
      ∧ (base.quiet .a 0).sourceConflict .a 12 = false ∧ base.own ≠ 2047 ∧ base.params.sresetPass = false
      ∧ ({ base with params := { base.params with sresetPass := true } } : State).params.sresetPass = true
      ∧ ((plainHandOff .a (telegram .sreset 2047 []) { base with free := 49 }).queue .b).length = 1
      ∧ ((plainHandOff .a (telegram .sreset 2047 []) { base with free := 48 }).queue .b).length = 0 := by
  simp only [State.receives]
  decide +kernel
theorem test_witness_SegmentReset :
    let s := holding [fwd 0, own 1 .response]
    s.numbered = true ∧ (∀ r ∈ s.records, r.origin = .forward → r.outSide = .b → r.inSide = Side.b.other)
      ∧ s.record? 0 = some (fwd 0) ∧ (fwd 0).outSide = .b ∧ s.record? 1 = some (own 1 .response)
      ∧ (own 1 .response).outSide = .a ∧ (opened 12).session = some (session 12) ∧ (session 12).side = .b := by
  decide +kernel

/-- Side A with all that its segment reset ends: records of each role, the head request, the event record, a restart. -/
def resettable : State :=
  { headed [1, 2, 0x01] (holding [own 0 .response, own 1 .notice, own 2 .event]) with
    headDue := false, respClaim := true, eventStation := some (12, .a), reported := 1#16
    eventRecord := some { record := 2, sent := 1#16 }, restart := some { kind := .queues, record := 0 }
    portA := { up with state := .defer, choice := some .plain, deferral := some 1 } }

theorem test_witness_SegmentReset_of_each_part :
    resettable.numbered = true ∧ (resettable.port .a).state = .defer ∧ resettable.eventStation = some (12, .a)
      ∧ resettable.requests.head?.any (fun q => q.side == .a) = true ∧ resettable.record? 2 = some (own 2 .event)
      ∧ resettable.restart = some { kind := .queues, record := 0 }
      ∧ (segmentReset .a resettable).latched = 0xC041#16 ∧ (segmentReset .a resettable).restartDue = true
      ∧ (segmentReset .a resettable).claimsDue = true ∧ (segmentReset .b resettable).claimsDue = false
      ∧ (segmentReset .a resettable).respClaim = false ∧ (segmentReset .a resettable).portA.choice = none := by
  decide +kernel

/-! ### Records -/

theorem test_witness_SlotOutcomes :
    (fwd 0).mark = none ∧ ({ fwd 0 with busyCount := 7 } : Record).busyCount + 1 ≤ (fwd 0).busyLimit
      ∧ (fwd 0).busyLimit < ({ fwd 0 with busyCount := 8 } : Record).busyCount + 1
      ∧ ({ fwd 0 with attempts := 2 } : Record).attempts + 1 < (fwd 0).retryLimit
      ∧ (fwd 0).retryLimit ≤ ({ fwd 0 with attempts := 3 } : Record).attempts + 1
      ∧ ({ fwd 0 with mark := some .purged } : Record).mark = some .purged := by
  decide +kernel
theorem test_witness_NoticeConversion :
    (holding [fwd 0]).numbered = true ∧ (holding [fwd 0]).record? (fwd 0).number = some (fwd 0)
      ∧ (fwd 0).origin = .forward ∧ ({ fwd 0 with rejectReason := some 0xFF } : Record).rejectReason = some 0xFF
      ∧ 1 < ({ fwd 0 with payload := List.replicate 57 0 } : Record).cells ∧ (fwd 0).cells ≤ 1 := by
  decide +kernel
theorem test_witness_RecordReleased :
    let s := holding [own 0 .response, own 1 .notice, own 2 .event]
    s.numbered = true ∧ s.record? 0 = some (own 0 .response) ∧ s.record? 1 = some (own 1 .notice)
      ∧ s.record? 2 = some (own 2 .event) ∧ (own 0 .response).origin = .relay .response
      ∧ ({ s with restart := some { kind := .full, record := 0 } } : State).restart = some { kind := .full, record := 0 }
      ∧ ({ s with eventRecord := some { record := 2, sent := 1#16 } } : State).eventRecord
        = some { record := 2, sent := 1#16 } := by
  decide +kernel
/-- A restart pending on another response is not due, and with no EVENT record the reported set stands. -/
theorem test_witness_RecordReleased_apart :
    let s : State :=
      { holding [own 0 .response, own 2 .event] with restart := some { kind := .full, record := 5 }, reported := 1#16 }
    s.numbered = true ∧ s.record? 0 = some (own 0 .response) ∧ s.restart = some { kind := .full, record := 5 }
      ∧ s.eventRecord = none ∧ (deliver (own 0 .response) s).restartDue = false
      ∧ (deliver (own 0 .response) s).claimsDue = true ∧ (deliver (own 2 .event) s).reported = 1#16 := by
  decide +kernel
theorem test_witness_HoldEnd :
    let s := holding [{ fwd 0 with state := .waiting 540000 }]
    s.ready = true ∧ s.numbered = true ∧ s.record? 0 = some { fwd 0 with state := .waiting 540000 } := by
  decide +kernel
theorem test_witness_LifetimeExpiry :
    let waiting := holding [{ fwd 0 with state := .waiting 540000 }]
    let deferred := deferring (.record 0) (holding [{ fwd 0 with state := .sending }])
    let answering : State :=
      { deferred with portB := { deferred.portB with state := .replying, returnState := some .defer } }
    waiting.ready = true ∧ waiting.numbered = true ∧ (waiting.port .b).choice ≠ some (.record 0)
      ∧ (deferred.port .b).choice = some (.record 0) ∧ (deferred.port .b).state = .defer
      ∧ (answering.port .b).choice = some (.record 0) ∧ (answering.port .b).state = .replying
      ∧ answering.ready = true ∧ ((contending none 0).port .b).state = .sending
      ∧ (awaited.record? 0).map Record.state = some .awaiting
      ∧ ((contending (some .purged) 0).record? 0).map Record.mark = some (some .purged) := by
  decide +kernel

/-! ### Tables, session and events -/

theorem test_witness_TableTimers :
    let e : DupEntry := { source := 12, seq := 5#4, arrivalSide := .a, reply := .ack, lastUse := 400000 }
    ({ base with dups := [e] } : State).ready = true ∧ ({ base with dups := [e] } : State).dup? 12 = some e := by
  decide +kernel
theorem test_witness_LeaseExpiry :
    (opened 12).ready = true ∧ (opened 12).numbered = true ∧ (opened 12).session = some (session 12) := by decide +kernel
theorem test_witness_EventRepeatExpiry :
    ({ base with repeatTimer := .running 600000 } : State).ready = true
      ∧ ({ base with repeatTimer := .running 600000 } : State).numbered = true := by
  decide +kernel
theorem test_witness_EventClaimGranted :
    let s : State := { base with eventStation := some (12, .a), eventClaim := true, claimsDue := true }
    s.numbered = true ∧ s.due = some .eventClaim ∧ s.sendCondition = true := by
  decide +kernel

/-! ### The head request -/

theorem test_witness_ExecutionOfTheHead :
    (headed [1, 2, 0x01] base).numbered = true ∧ (headed [1, 2, 0x01] base).executing (request [1, 2, 0x01]) []
      ∧ executes .identify = some (request [1, 2, 0x01]).command
      ∧ ({ headed [1, 2, 0x01] base with headDue := false, respClaim := true, claimsDue := true } : State).due
        = some .responseClaim := by
  simp only [State.executing]
  decide +kernel
/-- A head with a request behind it. -/
theorem test_witness_ExecutionOfTheHead_two :
    let s : State := { headed [1, 2, 0x01] base with requests := [request [1, 2, 0x01], request [3, 4, 0x06]], free := 382 }
    s.numbered = true ∧ s.executing (request [1, 2, 0x01]) [request [3, 4, 0x06]] ∧ (after .identify s).due = some .head
      ∧ (after .identify s).restart = none := by
  simp only [State.executing]
  decide +kernel
/-- When each step is due (R153, R78): the head with one cell free and 63 records, and not with none or with 64. -/
theorem test_witness_ExecutionOfTheHead_due :
    let s := headed [1, 2, 0x16, 0, 0, 0] base
    let claims : State := { s with headDue := false, respClaim := true, eventClaim := true, claimsDue := true }
    ({ s with free := 1 } : State).due = some .head ∧ ({ s with free := 0 } : State).due = none
      ∧ (headed [1, 2, 0x16, 0, 0, 0] (crowded 63)).due = some .head
      ∧ (headed [1, 2, 0x16, 0, 0, 0] (crowded 64)).due = none
      ∧ ({ s with restart := some { kind := .full, record := 5 } } : State).due = none
      ∧ (restarting .queues).due = some (.restart .queues) ∧ (restarting .full).due = some (.restart .full)
      ∧ claims.due = some .responseClaim ∧ ({ claims with requests := [] } : State).due = some .eventClaim
      ∧ ({ claims with respClaim := false, free := 0 } : State).due = none
      ∧ ({ claims with claimsDue := false } : State).due = none := by
  decide +kernel
/-- READ_CONFIG over 16 entries answers 159 bytes, which need three cells (R154, R75): with two free it waits. -/
theorem test_witness_ExecutionOfTheHead_cells :
    let s := headed [1, 2, 0x03, 0, 0, 0, 16] { base with stations := (List.range 16).map (fun i => loaded (i + 1) false) }
    5 + (decideRequest (request [1, 2, 0x03, 0, 0, 0, 16]) s).2.results.length = 159
      ∧ ({ s with free := 3 } : State).due = some .head ∧ ({ s with free := 2 } : State).due = none := by
  decide +kernel
/-- The frame, on a state with 63 records, and CELLS_LOW at the crossing of LOW_MARK 32 (R81): with 32 cells free the
response's claim latches it, with 33 or 31 it does not; the request's own cell comes back after. -/
theorem test_witness_ExecutionOfTheHead_frame :
    let s := headed [1, 2, 0x01] base
    (crowded 63).numbered = true ∧ (crowded 63).records.length < 64 ∧ (crowded 63).lowestFree = 63
      ∧ (executed (request [1, 2, 0x01]) [] (plainAnswer .done) { base with free := 32 }).latched = 0x2001#16
      ∧ (after .identify { s with free := 32 }).latched = 0x2001#16 ∧ (after .identify { s with free := 32 }).free = 32
      ∧ (after .identify { s with free := 33 }).latched = 0x0001#16
      ∧ (after .identify { s with free := 31 }).latched = 0x0001#16 := by
  decide +kernel
theorem test_witness_MalformedRequest :
    (headed [] base).executing (request []) [] ∧ (headed [1] base).executing (request [1]) []
      ∧ (headed [1, 2] base).executing (request [1, 2]) [] ∧ (headed [1, 2, 0x07] base).executing (request [1, 2, 0x07]) []
      ∧ (headed [1, 2, 0xFF] base).executing (request [1, 2, 0xFF]) [] := by
  simp only [State.executing]
  decide +kernel
theorem test_witness_FixedReads :
    (headed [1, 2, 0x01] base).executing (request [1, 2, 0x01]) [] ∧ (request [1, 2, 0x01]).command = some .identify
      ∧ (headed [1, 2, 0x06] base).executing (request [1, 2, 0x06]) [] ∧ (request [1, 2, 0x06]).command = some .readEvents := by
  simp only [State.executing]
  decide +kernel
theorem test_witness_Listings :
    (headed [1, 2, 0x02, 7, 0xFF, 16] base).executing (request [1, 2, 0x02, 7, 0xFF, 16]) []
      ∧ (headed [1, 2, 0x02, 8, 0, 16] base).executing (request [1, 2, 0x02, 8, 0, 16]) []
      ∧ (headed [1, 2, 0x02, 7, 0xFF, 17] base).executing (request [1, 2, 0x02, 7, 0xFF, 17]) []
      ∧ (headed [1, 2, 0x02, 7] base).executing (request [1, 2, 0x02, 7]) []
      ∧ (headed [1, 2, 0x02, 7, 0xFF] base).executing (request [1, 2, 0x02, 7, 0xFF]) []
      ∧ (headed [1, 2, 0x05, 63, 8] base).executing (request [1, 2, 0x05, 63, 8]) []
      ∧ (headed [1, 2, 0x05, 64, 8] base).executing (request [1, 2, 0x05, 64, 8]) []
      ∧ (headed [1, 2, 0x05, 63, 9] base).executing (request [1, 2, 0x05, 63, 9]) []
      ∧ (headed [1, 2, 0x05, 63] base).executing (request [1, 2, 0x05, 63]) []
      ∧ (headed [1, 2, 0x05] base).executing (request [1, 2, 0x05]) []
      ∧ (headed [1, 2, 0x02, 8, 0] base).executing (request [1, 2, 0x02, 8, 0]) []
      ∧ (headed [1, 2, 0x05, 64] base).executing (request [1, 2, 0x05, 64]) [] := by
  simp only [State.executing]
  decide +kernel
theorem test_witness_ReadConfig :
    (headed [1, 2, 0x03, 0, 7, 0xFF, 16] base).executing (request [1, 2, 0x03, 0, 7, 0xFF, 16]) []
      ∧ (headed [1, 2, 0x03, 1, 7, 0xFF, 16] (opened 13)).executing (request [1, 2, 0x03, 1, 7, 0xFF, 16]) []
      ∧ (headed [1, 2, 0x03, 2, 7, 0xFF, 16] base).executing (request [1, 2, 0x03, 2, 7, 0xFF, 16]) []
      ∧ (headed [1, 2, 0x03, 1, 8, 0, 16] base).executing (request [1, 2, 0x03, 1, 8, 0, 16]) []
      ∧ (headed [1, 2, 0x03, 1, 7, 0xFF, 17] base).executing (request [1, 2, 0x03, 1, 7, 0xFF, 17]) []
      ∧ (headed [1, 2, 0x03] base).executing (request [1, 2, 0x03]) []
      ∧ (headed [1, 2, 0x03, 2] base).executing (request [1, 2, 0x03, 2]) []
      ∧ (headed [1, 2, 0x03, 1, 7] base).executing (request [1, 2, 0x03, 1, 7]) []
      ∧ (headed [1, 2, 0x03, 1, 7, 0xFF] base).executing (request [1, 2, 0x03, 1, 7, 0xFF]) []
      ∧ (headed [1, 2, 0x03, 1, 8, 0] base).executing (request [1, 2, 0x03, 1, 8, 0]) [] := by
  simp only [State.executing]
  decide +kernel

/-- The relay in which only station 13 may manage. -/
def closedTo12 : State := { base with stations := [loaded 13 true] }

theorem test_witness_ReadCounters :
    (headed [1, 2, 0x04, 25, 1, 0] base).executing (request [1, 2, 0x04, 25, 1, 0]) []
      ∧ (headed [1, 2, 0x04, 0, 26, 1] base).executing (request [1, 2, 0x04, 0, 26, 1]) []
      ∧ (headed [1, 2, 0x04, 26, 1, 0] base).executing (request [1, 2, 0x04, 26, 1, 0]) []
      ∧ (headed [1, 2, 0x04, 25, 2, 0] base).executing (request [1, 2, 0x04, 25, 2, 0]) []
      ∧ (headed [1, 2, 0x04, 25, 0, 0] base).executing (request [1, 2, 0x04, 25, 0, 0]) []
      ∧ (headed [1, 2, 0x04, 25, 1, 2] base).executing (request [1, 2, 0x04, 25, 1, 2]) []
      ∧ (headed [1, 2, 0x04, 25, 1, 1] closedTo12).executing (request [1, 2, 0x04, 25, 1, 1]) []
      ∧ (headed [1, 2, 0x04] base).executing (request [1, 2, 0x04]) []
      ∧ (headed [1, 2, 0x04, 26] base).executing (request [1, 2, 0x04, 26]) []
      ∧ (headed [1, 2, 0x04, 25] base).executing (request [1, 2, 0x04, 25]) []
      ∧ (headed [1, 2, 0x04, 25, 2] base).executing (request [1, 2, 0x04, 25, 2]) []
      ∧ (headed [1, 2, 0x04, 25, 1] base).executing (request [1, 2, 0x04, 25, 1]) []
      ∧ closedTo12.permits 12 = false ∧ base.permits 12 = true := by
  simp only [State.executing]
  decide +kernel
theorem test_witness_OpenSession :
    (headed [1, 2, 0x10] base).executing (request [1, 2, 0x10]) [] ∧ (request [1, 2, 0x10]).args = []
      ∧ (headed [1, 2, 0x10, 1] (opened 12)).executing (request [1, 2, 0x10, 1]) []
      ∧ (headed [1, 2, 0x10, 255] (opened 13)).executing (request [1, 2, 0x10, 255]) []
      ∧ (headed [1, 2, 0x10, 0] base).executing (request [1, 2, 0x10, 0]) [] ∧ base.permits 12 = true := by
  simp only [State.executing]
  decide +kernel
theorem test_witness_CloseSession :
    (headed [1, 2, 0x11] (opened 12)).executing (request [1, 2, 0x11]) []
      ∧ (headed [1, 2, 0x11] (opened 13)).executing (request [1, 2, 0x11]) []
      ∧ (headed [1, 2, 0x11] base).executing (request [1, 2, 0x11]) [] ∧ base.permits 12 = true := by
  simp only [State.executing]
  decide +kernel
theorem test_witness_RefusedCommands :
    (headed [1, 2, 0x16, 0, 0, 0] closedTo12).executing (request [1, 2, 0x16, 0, 0, 0]) []
      ∧ executes .commit = some (some .commit) ∧ (request [1, 2, 0x16, 0, 0, 0]).command = some .commit
      ∧ (∃ e ∈ closedTo12.stations, e.origin = .loaded ∧ e.manage = true)
      ∧ (∀ e ∈ closedTo12.stations, e.origin = .loaded → e.manage = true → e.station ≠ 12)
      ∧ (headed [1, 2, 0x16, 0, 0, 0] base).executing (request [1, 2, 0x16, 0, 0, 0]) []
      ∧ (headed [1, 2, 0x16, 0, 0, 0] (opened 13)).executing (request [1, 2, 0x16, 0, 0, 0]) [] := by
  simp only [State.executing]
  decide +kernel
theorem test_witness_RefusedCommands_permits :
    base.permits 12 = true ∧ closedTo12.permits 12 = false ∧ closedTo12.permits 13 = true
      ∧ ({ base with stations := [loaded 12 false, loaded 13 true, loaded 14 true] } : State).permits 14 = true
      ∧ ({ base with stations := [loaded 12 false, loaded 13 true, loaded 14 true] } : State).permits 12 = false := by
  decide +kernel
theorem test_witness_StagedStations :
    (headed [1, 2, 0x12, 7, 0xBF, 1, 0, 0, 0] (opened 12)).executing (request [1, 2, 0x12, 7, 0xBF, 1, 0, 0, 0]) []
      ∧ (headed [1, 2, 0x12, 7, 0xBF, 1, 0, 0, 0] (opened 12)).holds (request [1, 2, 0x12, 7, 0xBF, 1, 0, 0, 0]) (session 12)
      ∧ (headed [1, 2, 0x12, 7, 0xC0, 1, 0, 0, 0] (opened 12)).executing (request [1, 2, 0x12, 7, 0xC0, 1, 0, 0, 0]) []
      ∧ (headed [1, 2, 0x12, 0, 1, 1, 0, 0, 2] (opened 12)).executing (request [1, 2, 0x12, 0, 1, 1, 0, 0, 2]) []
      ∧ (headed [1, 2, 0x12, 0, 1, 1, 0, 0] (opened 12)).executing (request [1, 2, 0x12, 0, 1, 1, 0, 0]) []
      ∧ (headed [1, 2, 0x13, 1, 0x97] (opened 12)).executing (request [1, 2, 0x13, 1, 0x97]) []
      ∧ (headed [1, 2, 0x13, 0xFF, 0xFF] (opened 12)).executing (request [1, 2, 0x13, 0xFF, 0xFF]) []
      ∧ (headed [1, 2, 0x13, 1] (opened 12)).executing (request [1, 2, 0x13, 1]) [] := by
  simp only [State.executing, State.holds]
  decide +kernel

/-- A session whose staged list is full. -/
def fullSession : Session :=
  { session 12 with
    staged := { (session 12).staged with
      entries := (List.range 256).map (fun i => (loaded (i + 1) false).staged) } }

theorem test_witness_StagedStations_full :
    let s : State := { base with session := some fullSession }
    (headed [1, 2, 0x12, 1, 1, 0, 0, 0, 0] s).executing (request [1, 2, 0x12, 1, 1, 0, 0, 0, 0]) []
      ∧ 256 ≤ fullSession.staged.entries.length ∧ ∀ g ∈ fullSession.staged.entries, g.station ≠ 257 := by
  simp only [State.executing]
  decide +kernel
theorem test_witness_StagedGroupsAndParams :
    (headed [1, 2, 0x14, 0, 0x7F, 0xFF, 0xFF, 0xFF, 0xFF, 0xFF, 0xFF, 0xFF] (opened 12)).executing
        (request [1, 2, 0x14, 0, 0x7F, 0xFF, 0xFF, 0xFF, 0xFF, 0xFF, 0xFF, 0xFF]) []
      ∧ (headed [1, 2, 0x14, 1, 0, 0, 0, 0, 0, 0, 0, 0] (opened 12)).executing
        (request [1, 2, 0x14, 1, 0, 0, 0, 0, 0, 0, 0, 0]) []
      ∧ (headed [1, 2, 0x14, 2, 0, 0, 0, 0, 0, 0, 0, 0] (opened 12)).executing
        (request [1, 2, 0x14, 2, 0, 0, 0, 0, 0, 0, 0, 0]) []
      ∧ (headed [1, 2, 0x14, 1, 0x80, 0, 0, 0, 0, 0, 0, 0] (opened 12)).executing
        (request [1, 2, 0x14, 1, 0x80, 0, 0, 0, 0, 0, 0, 0]) []
      ∧ (headed [1, 2, 0x15] (opened 12)).executing (request [1, 2, 0x15]) []
      ∧ (headed [1, 2, 0x15, 0x12, 0, 60] (opened 12)).executing (request [1, 2, 0x15, 0x12, 0, 60]) []
      ∧ (headed [1, 2, 0x15, 0x12, 0, 61] (opened 12)).executing (request [1, 2, 0x15, 0x12, 0, 61]) []
      ∧ (headed [1, 2, 0x15, 0x12, 0] (opened 12)).executing (request [1, 2, 0x15, 0x12, 0]) []
      ∧ (headed [1, 2, 0x14] (opened 12)).executing (request [1, 2, 0x14]) []
      ∧ (headed [1, 2, 0x14, 2] (opened 12)).executing (request [1, 2, 0x14, 2]) []
      ∧ (headed [1, 2, 0x14, 1, 0, 0, 0, 0, 0, 0, 0] (opened 12)).executing (request [1, 2, 0x14, 1, 0, 0, 0, 0, 0, 0, 0]) []
      ∧ (session 12).staged.params.set 0x12 61 = none ∧ ((session 12).staged.params.set 0x12 60).isSome = true := by
  simp only [State.executing]
  decide +kernel
/-- The ends of the ranges of R134. -/
theorem test_witness_StagedGroupsAndParams_ranges :
    let ok (i v : Nat) : Bool := ((Params.defaults .forward).set i v).isSome
    ([(1, 0), (1, 1), (2, 2), (3, 1), (4, 1), (5, 1), (6, 0), (7, 3), (8, 10), (8, 3600), (9, 1), (9, 15), (10, 10), (10, 2000),
        (11, 0), (11, 15), (12, 10), (12, 5000), (13, 100), (13, 60000), (14, 100), (14, 10000), (15, 8), (15, 192), (16, 0),
        (16, 383), (17, 1), (17, 255), (18, 1), (18, 60)].all (fun a => ok a.1 a.2)) = true
      ∧ ([(0, 0), (1, 2), (2, 3), (3, 2), (4, 2), (5, 2), (6, 2), (7, 4), (8, 9), (8, 3601), (9, 0), (9, 16), (10, 9),
        (10, 2001), (11, 16), (12, 9), (12, 5001), (13, 99), (13, 60001), (14, 99), (14, 10001), (15, 7), (15, 193), (16, 384),
        (17, 0), (17, 256), (18, 0), (18, 61), (19, 0)].any (fun a => ok a.1 a.2)) = false := by
  decide +kernel
theorem test_witness_Commit :
    (headed [1, 2, 0x16, 0, 0, 1] (opened 12)).executing (request [1, 2, 0x16, 0, 0, 1]) []
      ∧ (headed [1, 2, 0x16, 0, 0, 1] (opened 12)).holds (request [1, 2, 0x16, 0, 0, 1]) (session 12)
      ∧ (headed [1, 2, 0x16, 0, 0, 2] (opened 12)).executing (request [1, 2, 0x16, 0, 0, 2]) []
      ∧ (headed [1, 2, 0x16, 0, 1, 0] (opened 12)).executing (request [1, 2, 0x16, 0, 1, 0]) []
      ∧ (request [1, 2, 0x16, 0, 1, 0]).args = [0, 1, 0]
      ∧ (headed [1, 2, 0x16, 0] (opened 12)).executing (request [1, 2, 0x16, 0]) []
      ∧ (headed [1, 2, 0x16, 0, 0] (opened 12)).executing (request [1, 2, 0x16, 0, 0]) [] := by
  simp only [State.executing, State.holds]
  decide +kernel

/-- 256 LEARNED entries of stations 1 to 256, idle for so long. -/
def learnedTable (idle : Nat) : List StationEntry :=
  (List.range 256).map (fun i => { loaded (i + 1) false with origin := .learned idle })

theorem test_witness_Commit_merge :
    ascending StagedEntry.station (session 12).staged.entries = true
      ∧ ascending StationEntry.station (learnedTable 3) = true
      ∧ (mergeStations (session 12).staged.entries (learnedTable 3)).length = 256
      ∧ (mergeStations (session 12).staged.entries (learnedTable 3)).all (fun e => e.station != 256) = true := by
  decide +kernel
/-- The staged table has 407 on side A, so the record for it toward side B is UNROUTED. -/
theorem test_commit_withdraws_the_unrouted :
    let c := session 12
    let staged := { c.staged with
      entries := [{ station := 407, side := .a, admitPlain := true, admitConfirmed := true, manage := false }] }
    let s : State := { holding [fwd 0] with session := some { c with staged := staged } }
    ((after .commit (headed [1, 2, 0x16, 0, 0, 1] s)).record? 0).map Record.payload
      = some [0x01, 0x97, 0x05, 0x02, 0x07, 0x00, 0x00] := by
  decide +kernel
theorem test_witness_PurgeAndRestart :
    (headed [1, 2, 0x20, 0xFF, 0xFF] (holding [fwd 0])).executing (request [1, 2, 0x20, 0xFF, 0xFF]) []
      ∧ (headed [1, 2, 0x20, 7, 0xBF, 1] base).executing (request [1, 2, 0x20, 7, 0xBF, 1]) []
      ∧ (headed [1, 2, 0x20, 0, 0] base).executing (request [1, 2, 0x20, 0, 0]) []
      ∧ (headed [1, 2, 0x20, 7, 0xC0] base).executing (request [1, 2, 0x20, 7, 0xC0]) []
      ∧ (headed [1, 2, 0x20, 0, 1, 2] base).executing (request [1, 2, 0x20, 0, 1, 2]) []
      ∧ (headed [1, 2, 0x21, 0] base).executing (request [1, 2, 0x21, 0]) []
      ∧ (headed [1, 2, 0x21, 1] base).executing (request [1, 2, 0x21, 1]) []
      ∧ (headed [1, 2, 0x21, 2] base).executing (request [1, 2, 0x21, 2]) []
      ∧ (headed [1, 2, 0x20] base).executing (request [1, 2, 0x20]) []
      ∧ (headed [1, 2, 0x20, 0] base).executing (request [1, 2, 0x20, 0]) []
      ∧ (headed [1, 2, 0x21] base).executing (request [1, 2, 0x21]) [] ∧ base.permits 12 = true := by
  simp only [State.executing]
  decide +kernel
theorem test_witness_EventCommands :
    (headed [1, 2, 0x30, 0, 0] base).executing (request [1, 2, 0x30, 0, 0]) []
      ∧ (headed [1, 2, 0x30, 7, 0xBF] base).executing (request [1, 2, 0x30, 7, 0xBF]) []
      ∧ (headed [1, 2, 0x30, 7, 0xC0] base).executing (request [1, 2, 0x30, 7, 0xC0]) []
      ∧ (headed [1, 2, 0x30, 0x03, 0x84] base).executing (request [1, 2, 0x30, 0x03, 0x84]) [] ∧ base.own = 0x384
      ∧ (headed [1, 2, 0x30, 0] base).executing (request [1, 2, 0x30, 0]) []
      ∧ (headed [1, 2, 0x31, 0xFF, 0xFF] base).executing (request [1, 2, 0x31, 0xFF, 0xFF]) []
      ∧ (headed [1, 2, 0x32, 0xFF, 0xFF] base).executing (request [1, 2, 0x32, 0xFF, 0xFF]) []
      ∧ base.permits 12 = true := by
  simp only [State.executing]
  decide +kernel

/-! ### Laws -/

/-- A state in which much is held, with a command that waits. -/
def busy : State :=
  { headed [1, 2, 0x20, 0xFF, 0xFF] (contending none 3) with
    eventStation := some (12, .a), reported := 0x0001#16, session := some (session 12), pending := [.purge] }

theorem test_witness_laws :
    busy.balanced = true ∧ busy.forwardBounded = true ∧ busy.eventSetsOk = true ∧ busy.portsLegal = true
      ∧ busy.paramsOk = true ∧ busy.tablesOk = true ∧ busy.queuesOk = true := by
  decide +kernel
theorem test_witness_PortsKept_matched :
    busy.numbered = true ∧ busy.matched = true ∧ awaited.portsLegal = true ∧ awaited.numbered = true
      ∧ awaited.matched = true := by
  decide +kernel
theorem test_witness_laws_step : ∃ t, step busy = .next t ∧ t.records.length = 2 := ⟨_, rfl, by decide +kernel⟩

end Sys2Proof.Tests
end

section
/-! SUPPORT. RECEPTION_END (R25): what becomes of a reception by the state of the port and by R8 and R9, once each, and the
statement on the receptions that are discarded, passed over or not received. -/

namespace Sys2Proof.Machine

/-! ## Ports and records after the updates of a reception -/

@[simp] theorem port_elapse (dt : Nat) (x : Side) (s : State) : (elapse dt s).port x = s.port x := by cases x <;> rfl
@[simp] theorem port_countBy (c : Counter) (n : Nat) (x : Side) (s : State) : (countBy c n s).port x = s.port x := by
  cases x <;> rfl
@[simp] theorem record?_countBy (c : Counter) (k n : Nat) (s : State) : (countBy c k s).record? n = s.record? n := rfl
@[simp] theorem numbered_countBy (c : Counter) (n : Nat) (s : State) : (countBy c n s).numbered = s.numbered := rfl
@[simp] theorem numbered_setPort (x : Side) (p : Port) (s : State) : (setPort x p s).numbered = s.numbered := by
  cases x <;> rfl

/-- The port whose line is quiet again keeps all but its staging and its measure (R29). -/
@[simp] theorem port_quiet (s : State) (x : Side) (dt : Nat) :
    (s.quiet x dt).port x = { s.port x with staging := .empty, quietSince := s.now + dt } := by simp [State.quiet]

/-- A line that is quiet again leaves the records (R25). -/
@[simp] theorem record?_quiet (s : State) (x : Side) (dt n : Nat) : (s.quiet x dt).record? n = s.record? n := by
  simp [State.quiet, State.record?]

@[simp] theorem numbered_quiet (s : State) (x : Side) (dt : Nat) : (s.quiet x dt).numbered = s.numbered := by
  simp [State.quiet, State.numbered]

/-! ## The end of an attempt -/

/-- An attempt that failed leaves both ports (R117, R118). -/
theorem port_outcomeFailed (r : Record) (why : EndReason) (x : Side) (s : State) :
    (outcomeFailed r why s).port x = s.port x := by
  rcases outcomeFailed_cases r why s with ⟨why', e⟩ | e <;> rw [e]
  · have k := endUndelivered_keeps { r with attempts := r.attempts + 1 } why' s
    exact port_congr k.portA k.portB x
  · exact port_congr rfl rfl x

/-- An attempt that failed keeps the numbers of the records (R117, R118). -/
theorem numbered_outcomeFailed (r : Record) (why : EndReason) {s : State} (h : s.numbered = true) :
    (outcomeFailed r why s).numbered = true := by
  rcases outcomeFailed_cases r why s with ⟨why', e⟩ | e <;> rw [e]
  · exact numbered_endUndelivered _ _ h
  · exact numbered_updateRecord _ _ (fun _ _ => rfl) h

/-- The await of a port that awaits ends (R37). -/
theorem leaveAwait_awaiting {x : Side} {s : State} (h : (s.port x).state = .awaitReply) :
    leaveAwait x s = awaitOver x s := if_pos h

/-- A port that awaits nothing has no await to end. -/
theorem leaveAwait_not_awaiting {x : Side} {s : State} (h : (s.port x).state ≠ .awaitReply) : leaveAwait x s = s :=
  if_neg h

/-- No reply in the slot of record `r` ends its attempt (R117). -/
theorem reportSlot_noReply {x : Side} {s : State} {n : Nat} {r : Record} (ha : (s.port x).awaited = some n)
    (hr : s.record? n = some r) : reportSlot x .noReply s = outcomeFailed r .noReply s := by
  simp [reportSlot, slotOutcome, ha, hr]

/-! ## What R8 and R9 discard -/

/-- Why a reception on port X is discarded, with the counter it is counted in: its length, its check word, or the fields
of what its check word covers (R8, R9). -/
def DiscardedAs (x : Side) (bytes : List Byte) (c : Counter) : Prop :=
  (c = .rxFormatErr x ∧ (bytes.length < 7 ∨ 247 < bytes.length))
    ∨ (c = .rxCheckErr x ∧ 7 ≤ bytes.length ∧ bytes.length ≤ 247
      ∧ beNat (bytes.drop (bytes.length - 2)) ≠ (checkWord (bytes.take (bytes.length - 2))).toNat)
    ∨ (c = .rxFormatErr x ∧ 7 ≤ bytes.length ∧ bytes.length ≤ 247
      ∧ beNat (bytes.drop (bytes.length - 2)) = (checkWord (bytes.take (bytes.length - 2))).toNat
      ∧ parseBody (bytes.take (bytes.length - 2)) = none)

/-- The length test of a reception, with its limits in bytes (R8). -/
theorem badLength_iff (bytes : List Byte) :
    (bytes.length < 7 || Config.stagingBytes < bytes.length) = true ↔ bytes.length < 7 ∨ 247 < bytes.length := by
  rw [Bool.or_eq_true, decide_eq_true_eq, decide_eq_true_eq]
  exact Iff.rfl

/-- A reception too short or too long is a format error (R8). -/
theorem checkReception_length {bytes : List Byte} (h : bytes.length < 7 ∨ 247 < bytes.length) :
    checkReception bytes = .formatError :=
  if_pos ((badLength_iff bytes).mpr h)

/-- A reception of a lawful length is tested by its check word first, and then by its fields (R8, R9). -/
theorem checkReception_of_length {bytes : List Byte} (h7 : 7 ≤ bytes.length) (h247 : bytes.length ≤ 247) :
    checkReception bytes =
      if (checkWord (bytes.take (bytes.length - 2))).toNat = beNat (bytes.drop (bytes.length - 2)) then
        (parseBody (bytes.take (bytes.length - 2))).elim .formatError .wellFormed
      else .checkError := by
  have hl : ¬ (bytes.length < 7 || Config.stagingBytes < bytes.length) = true := by
    rw [badLength_iff]
    omega
  simp only [checkReception, if_neg hl]
  cases parseBody (bytes.take (bytes.length - 2)) <;> rfl

/-- A reception that is discarded is counted for its cause, and ends the await of a port that awaits (R8, R9, R37). -/
theorem takeReception_discarded {x : Side} {bytes : List Byte} {c : Counter} (h : DiscardedAs x bytes c) (s : State) :
    takeReception x bytes s = leaveAwait x (discarded x c s) := by
  rcases h with ⟨rfl, hlen⟩ | ⟨rfl, h7, h247, hcheck⟩ | ⟨rfl, h7, h247, hcheck, hbody⟩
  · simp [takeReception, checkReception_length hlen]
  · simp [takeReception, checkReception_of_length h7 h247, Ne.symm hcheck]
  · simp [takeReception, checkReception_of_length h7 h247, hcheck, hbody]

/-- Outside an awaited slot a discarded reception is counted, and that is all. -/
theorem takeReception_discarded_not_awaiting {x : Side} {bytes : List Byte} {c : Counter} (h : DiscardedAs x bytes c)
    {s : State} (hs : (s.port x).state ≠ .awaitReply) : takeReception x bytes s = count c s := by
  rw [takeReception_discarded h, discarded, if_neg hs]
  exact leaveAwait_not_awaiting (by simpa using hs)

/-- In an awaited slot a discarded reception gives no reply, and the await is over (R37, R117). -/
theorem takeReception_discarded_awaiting {x : Side} {bytes : List Byte} {c : Counter} (h : DiscardedAs x bytes c)
    {s : State} (hs : (s.port x).state = .awaitReply) {n : Nat} {r : Record} (ha : (s.port x).awaited = some n)
    (hr : s.record? n = some r) :
    takeReception x bytes s = awaitOver x (outcomeFailed r .noReply (count c s)) := by
  have hslot : discarded x c s = outcomeFailed r .noReply (count c s) := by
    rw [discarded, if_pos hs]
    exact reportSlot_noReply (by simpa using ha) (by simpa using hr)
  rw [takeReception_discarded h, hslot]
  exact leaveAwait_awaiting (by simpa [port_outcomeFailed] using hs)

/-! ## RECEPTION_END by the state of the port -/

/-- RECEPTION_END from a ready state is the end of the reception after the time that passed. -/
theorem exec_receptionEnd {s : State} (h : s.ready = true) (dt : Nat) (x : Side) (bytes : List Byte) :
    exec (.receptionEnd dt x bytes) s = .next (receptionEnds x bytes (elapse dt s)) :=
  fromOutside_ready h dt (receptionEnds x bytes)

/-- A port that is DOWN or sends receives nothing (R24; log 4). -/
theorem receptionEnds_unheard {x : Side} {s : State} (h : (s.port x).state = .down ∨ (s.port x).state = .sending)
    (bytes : List Byte) : receptionEnds x bytes s = s := by
  rcases h with h | h <;> simp [receptionEnds, h]

/-- The end of activity on a line that is passed over, in REPLYING or after it, starts the quiet wait over (R34, R35). -/
theorem receptionEnds_passed_over {x : Side} {s : State}
    (h : (s.port x).state = .replying ∨ (s.port x).staging = .passedOver
      ∧ ((s.port x).state = .idle ∨ (s.port x).state = .defer ∨ (s.port x).state = .awaitReply)) (bytes : List Byte) :
    receptionEnds x bytes s = setPort x ((s.port x).lineQuiet s.now) s := by
  rcases h with h | ⟨hp, h | h | h⟩
  · simp [receptionEnds, h]
  all_goals simp [receptionEnds, h, hp]

/-- A reception that a port takes is decided with its line quiet, and the step ends (R25; log 8). -/
theorem receptionEnds_taken {x : Side} {s : State} (hp : (s.port x).staging ≠ .passedOver)
    (h : (s.port x).state = .idle ∨ (s.port x).state = .defer ∨ (s.port x).state = .awaitReply) (bytes : List Byte) :
    receptionEnds x bytes s = finish (takeReception x bytes (setPort x ((s.port x).lineQuiet s.now) s)) := by
  rcases h with h | h | h <;> simp [receptionEnds, h, hp]

/-- The line of a port that hears the end of activity is quiet again after the time that passed. -/
theorem setPort_lineQuiet_elapse (s : State) (x : Side) (dt : Nat) :
    setPort x (((elapse dt s).port x).lineQuiet (elapse dt s).now) (elapse dt s) = s.quiet x dt := by
  simp [State.quiet, Port.lineQuiet]

/-- A reception that a port takes ends as its decision does (R25, R46; log 8). -/
theorem receptionEnd_endsAs {x : Side} {s u : State} {bytes : List Byte} {dt : Nat} (hready : s.ready = true)
    (hp : (s.port x).staging ≠ .passedOver)
    (h : (s.port x).state = .idle ∨ (s.port x).state = .defer ∨ (s.port x).state = .awaitReply)
    (hu : takeReception x bytes (s.quiet x dt) = u) (hn : u.numbered = true) :
    ∃ t, exec (.receptionEnd dt x bytes) s = .next t ∧ EndsAs u t := by
  refine ⟨finish u, ?_, ends_finish hn⟩
  rw [exec_receptionEnd hready, receptionEnds_taken (by simpa using hp) (by simpa using h), setPort_lineQuiet_elapse, hu]

/-! ## The statement -/

/-- Settles O23: a discarded reception by the state of the port that takes it, and the receptions that no check sees. -/
theorem discardedReception : Obligations.DiscardedReception := by
  refine ⟨fun dt x bytes s c hready hn (hd : DiscardedAs x bytes c) => ⟨?_, ?_⟩, fun dt x bytes s hready => ⟨?_, ?_, ?_⟩⟩
  · rintro ⟨hstate, hp⟩
    have hs : ((s.quiet x dt).port x).state ≠ .awaitReply := by
      rcases hstate with h | h <;> simp [h]
    exact receptionEnd_endsAs hready hp (hstate.imp_right .inl) (takeReception_discarded_not_awaiting hd hs)
      (by simpa using hn)
  · intro n r hstate hp ha hr
    have hfailed : (outcomeFailed r .noReply (count c (s.quiet x dt))).numbered = true :=
      numbered_outcomeFailed r .noReply (by simpa using hn)
    exact receptionEnd_endsAs hready hp (.inr (.inr hstate))
      (takeReception_discarded_awaiting hd (by simpa using hstate) (by simpa using ha) (by simpa using hr))
      (by simpa [awaitOver] using hfailed)
  · intro hstate
    rw [exec_receptionEnd hready, receptionEnds_passed_over (.inl (by simpa using hstate)), setPort_lineQuiet_elapse,
      State.quiet]
  · intro hp hstate
    rw [exec_receptionEnd hready, receptionEnds_passed_over (.inr ⟨by simpa using hp, by simpa using hstate⟩),
      setPort_lineQuiet_elapse, State.quiet]
  · intro hstate
    rw [exec_receptionEnd hready, receptionEnds_unheard (by simpa using hstate)]

end Sys2Proof.Machine
end

section
/-! SUPPORT. The parts of a port that agree with its state, and what each change of a port does to them. -/

namespace Sys2Proof.Machine

/-! ## Legal ports -/

/-- A legal port by its parts (R19, R20, R29). -/
structure LegalPort (p : Port) : Prop where
  deferral : p.deferral = p.choice.map fun _ => deferralOf p.lossCount
  lossCount_le : p.lossCount ≤ 15
  lossCount_zero : p.choice = none → p.lossCount = 0
  returnState : p.returnState = none ↔ p.state ≠ .replying
  reply : p.reply = none ↔ p.state ≠ .replying
  awaited : p.awaited = none ↔ p.state ≠ .awaitReply
  replyTimer : p.replyTimer = .stopped ↔ p.state ≠ .awaitReply
  choice : p.choice = none ↔ p.state ≠ .defer ∧ p.state ≠ .sending ∧ p.returnState ≠ some .defer
  txd : p.txd = [] ∨ p.state = .sending ∨ p.state = .replying

/-- A flag that says whether a part is there, and a test of the state, agree when the part is absent outside that state. -/
theorem isSome_eq_decide {α : Type} (o : Option α) (P : Prop) [Decidable P] :
    o.isSome = decide P ↔ (o = none ↔ ¬ P) := by
  cases o <;> simp

theorem legal_iff (p : Port) : p.legal = true ↔ LegalPort p := by
  have timer : (p.replyTimer != .stopped) = (p.state == .awaitReply)
      ↔ (p.replyTimer = .stopped ↔ p.state ≠ .awaitReply) := by
    rw [Bool.eq_iff_iff, bne_iff_ne, beq_iff_eq, not_iff_comm]
    exact iff_comm
  have part : ∀ {α : Type} (o : Option α) (c : PortState),
      o.isSome = (p.state == c) ↔ (o = none ↔ p.state ≠ c) := fun o c => isSome_eq_decide o _
  have choice : p.choice.isSome = (p.state == .defer || p.state == .sending || p.returnState == some .defer)
      ↔ (p.choice = none ↔ p.state ≠ .defer ∧ p.state ≠ .sending ∧ p.returnState ≠ some .defer) := by
    have := isSome_eq_decide p.choice (p.state = .defer ∨ p.state = .sending ∨ p.returnState = some .defer)
    simpa [← beq_eq_decide, Bool.or_assoc] using this
  have zero : (p.choice.isSome = true ∨ p.lossCount = 0) ↔ (p.choice = none → p.lossCount = 0) := by
    cases p.choice <;> simp
  simp only [Port.legal, Bool.and_eq_true, beq_iff_eq (α := Bool), beq_iff_eq (α := Option Nat), timer, Bool.or_eq_true,
    decide_eq_true_eq, List.isEmpty_iff, choice, part]
  simp only [beq_iff_eq, zero, or_assoc]
  exact ⟨fun ⟨⟨⟨⟨⟨⟨⟨⟨h1, h2⟩, h3⟩, h4⟩, h5⟩, h6⟩, h7⟩, h8⟩, h9⟩ => ⟨h1, h2, h3, h4, h5, h6, h7, h8, h9⟩,
    fun h => ⟨⟨⟨⟨⟨⟨⟨⟨h.1, h.2⟩, h.3⟩, h.4⟩, h.5⟩, h.6⟩, h.7⟩, h.8⟩, h.9⟩⟩

namespace LegalPort

variable {p : Port}

/-- A port that neither defers nor sends, and will not go on deferring, has chosen nothing. -/
theorem choice_none (h : LegalPort p) (h1 : p.state ≠ .defer) (h2 : p.state ≠ .sending) (h3 : p.state ≠ .replying) :
    p.choice = none :=
  h.choice.mpr ⟨h1, h2, by simp [h.returnState.mpr h3]⟩

/-- A port that has chosen something defers, sends, or replies before it goes on deferring (R28). -/
theorem of_choice (h : LegalPort p) {c : Choice} (hc : p.choice = some c) :
    p.state = .defer ∨ p.state = .sending ∨ p.state = .replying := by
  by_contra hno
  simp only [not_or] at hno
  simp [h.choice_none hno.1 hno.2.1 hno.2.2] at hc

theorem afterReset (now : Nat) (ok : Bool) : LegalPort (Port.afterReset now ok) := by
  constructor <;> simp [Port.afterReset]

theorem choose (h : LegalPort p) (hi : p.state = .idle) (c : Choice) (cls : TrafficClass) :
    LegalPort (p.choose c cls) := by
  obtain ⟨-, -, -, h4, h5, h6, h7, -, h9⟩ := h
  constructor <;> simp_all [Port.choose, deferralOf]

theorem dropChoice (h : LegalPort p) : LegalPort p.dropChoice := by
  unfold Port.dropChoice Port.noChoice
  obtain ⟨-, -, -, h4, h5, h6, h7, -, h9⟩ := id h
  cases hs : p.state <;> simp only <;> first | exact h | (constructor <;> simp_all)


/-- The end of the line's activity is no part of a port's legality (R29). -/
theorem lineQuiet (h : LegalPort p) (now : Nat) : LegalPort (p.lineQuiet now) := { h with }

theorem silenced (h : LegalPort p) : LegalPort p.silenced := { h with txd := .inl rfl }

theorem goDown (p : Port) (now : Nat) : LegalPort (p.goDown now) := by
  constructor <;> simp [Port.goDown, Port.noChoice]

/-- A port that is DOWN holds nothing, so nothing is to be cleared when it comes up (R23). -/
theorem comeUp (h : LegalPort p) (hs : p.state = .down) (now : Nat) :
    LegalPort { p with state := .idle, staging := .empty, quietSince := now } := by
  obtain ⟨h1, h2, h3, h4, h5, h6, h7, h8, h9⟩ := h
  constructor <;> simp_all

theorem restartQueues (h : LegalPort p) (now : Nat) : LegalPort (p.restartQueues now) := by
  unfold Port.restartQueues
  split
  · exact h
  · constructor <;> simp [Port.noChoice]

theorem endAwait (h : LegalPort p) (hs : p.state = .awaitReply) : LegalPort p.endAwait := by
  obtain ⟨h1, h2, h3, h4, h5, h6, h7, h8, h9⟩ := h
  constructor <;> simp_all [Port.endAwait]

theorem startSending (h : LegalPort p) (hs : p.state = .defer) (bytes : List Byte) :
    LegalPort { p with state := .sending, txd := bytes } := by
  obtain ⟨h1, h2, h3, h4, h5, h6, h7, h8, h9⟩ := h
  constructor <;> simp_all

theorem deferAgain (h : LegalPort p) (hs : p.state = .sending) {losses : Nat} (hl : losses ≤ 15) :
    LegalPort (p.deferAgain losses) := by
  obtain ⟨h1, h2, h3, h4, h5, h6, h7, h8, h9⟩ := h
  obtain ⟨c, hc⟩ : ∃ c, p.choice = some c := Option.ne_none_iff_exists'.mp (by simp [h8, hs])
  constructor <;> simp_all [Port.deferAgain, Port.loseLine]

theorem giveUp (h : LegalPort p) (hs : p.state = .sending) : LegalPort p.giveUp := by
  obtain ⟨h1, h2, h3, h4, h5, h6, h7, h8, h9⟩ := h
  constructor <;> simp_all [Port.giveUp, Port.loseLine, Port.noChoice]

theorem plainSent (h : LegalPort p) (hs : p.state = .sending) (now : Nat) : LegalPort (p.plainSent now) := by
  obtain ⟨h1, h2, h3, h4, h5, h6, h7, h8, h9⟩ := h
  constructor <;> simp_all [Port.plainSent, Port.lineQuiet, Port.noChoice]

theorem recordSent (h : LegalPort p) (hs : p.state = .sending) (n now : Nat) : LegalPort (p.recordSent n now) := by
  obtain ⟨h1, h2, h3, h4, h5, h6, h7, h8, h9⟩ := h
  constructor <;> simp_all [Port.recordSent, Port.lineQuiet, Port.noChoice]

/-- A port begins a reply from IDLE or DEFER, and its return state keeps which (R34). -/
theorem beginReply (h : LegalPort p) (hs : p.state = .idle ∨ p.state = .defer) (r : Reply) (bytes : List Byte) :
    LegalPort { p with
      state := .replying, returnState := some (if p.state = .defer then .defer else .idle), reply := some r
      txd := bytes } := by
  obtain ⟨h1, h2, h3, h4, h5, h6, h7, h8, h9⟩ := h
  rcases hs with hs | hs <;> constructor <;> simp_all

theorem afterReply (h : LegalPort p) (hs : p.state = .replying) (now : Nat) : LegalPort (p.afterReply now) := by
  obtain ⟨h1, h2, h3, h4, h5, h6, h7, h8, h9⟩ := h
  by_cases hr : p.returnState = some .defer <;> constructor <;> simp_all [Port.afterReply]

/-- A reply timer that is held still runs for an awaited reply (R36). -/
theorem holdTimer (h : LegalPort p) (deadline now : Nat) :
    LegalPort { p with staging := .collecting, replyTimer := heldTimer deadline now p.replyTimer } := by
  have e : heldTimer deadline now p.replyTimer = .stopped ↔ p.replyTimer = .stopped := by
    cases p.replyTimer with
    | running since => simp only [heldTimer]; split <;> simp
    | stopped => simp [heldTimer]
    | held => simp [heldTimer]
  exact { h with replyTimer := e.trans h.replyTimer }

end LegalPort
end Sys2Proof.Machine
end

section
/-! SUPPORT. The agreement of records and ports, and what changes of either do to it. -/

namespace Sys2Proof.Machine

/-! ## Agreement of records and ports -/

/-- The port has chosen record `n`, or awaits its reply (R20). -/
def Port.Names (p : Port) (n : Nat) : Prop := p.choice = some (.record n) ∨ p.awaited = some n

/-- Records and ports agree (R20, R110, R111), but for the records that are loose: those that no port names, whatever their
state says, because their end or their return is still to come in the same step. -/
structure Agrees (loose : Set Nat) (port : Side → Port) (rs : List Record) : Prop where
  sending : ∀ r ∈ rs, r.number ∉ loose → (r.state = .sending ↔ (port r.outSide).choice = some (.record r.number))
  awaiting : ∀ r ∈ rs, r.number ∉ loose → (r.state = .awaiting ↔ (port r.outSide).awaited = some r.number)
  first : ∀ r ∈ rs, r.state ≠ .queued → ∀ q ∈ rs, q.outSide = r.outSide → q.destination = r.destination →
    r.stamp ≤ q.stamp
  sides : ∀ r ∈ rs, r.origin = .forward → r.inSide = r.outSide.other
  named : ∀ x n, (port x).Names n → n ∉ loose ∧ ∃ r ∈ rs, r.number = n ∧ r.outSide = x

/-- A record is found under its number with a property when it is held with that property (R106). -/
theorem any_record?_iff {s : State} (hn : s.numbered = true) (n : Nat) (p : Record → Bool) :
    (s.record? n).any p = true ↔ ∃ r ∈ s.records, r.number = n ∧ p r = true := by
  rw [Option.any_eq_true]
  constructor
  · rintro ⟨r, hr, hp⟩
    exact ⟨r, (record?_mem hr).1, (record?_mem hr).2, hp⟩
  · rintro ⟨r, hr, rfl, hp⟩
    exact ⟨r, record?_of_mem hn hr, hp⟩

/-- The law `matched` in its parts. -/
theorem matched_iff {s : State} (hn : s.numbered = true) :
    s.matched = true ↔ Agrees ∅ s.port s.records ∧ ∀ x, (s.port x).choice = some .plain → s.queue x ≠ [] := by
  have e : ∀ {a b : Bool}, (a == b) = true ↔ (a = true ↔ b = true) := by decide
  have hall : ∀ P : Side → Bool, [Side.a, .b].all P = true ↔ ∀ x, P x = true := fun P =>
    ⟨fun h x => by cases x <;> simp_all, fun h => by simp [h]⟩
  have hrec : ∀ x n, (s.record? n).any (fun r => r.outSide == x) = true ↔ ∃ r ∈ s.records, r.number = n ∧ r.outSide = x :=
    fun x n => by simp only [any_record?_iff hn, beq_iff_eq]
  have hfirst : ∀ r : Record, (r.state == .queued || s.records.all (fun q =>
      !(q.outSide == r.outSide && q.destination == r.destination && q.stamp < r.stamp))) = true
      ↔ (r.state ≠ .queued → ∀ q ∈ s.records, q.outSide = r.outSide → q.destination = r.destination →
        r.stamp ≤ q.stamp) := fun r => by
    simp [or_iff_not_imp_left]
  constructor
  · intro h
    simp only [State.matched, Bool.and_eq_true, List.all_eq_true (l := s.records), hfirst, hall, e, beq_iff_eq] at h
    obtain ⟨hr, hx⟩ := h
    refine ⟨⟨fun r h _ => (hr r h).1.1.1, fun r h _ => (hr r h).1.1.2, fun r h => (hr r h).1.2, fun r h ho => ?_,
      fun x n hn => ⟨by simp, ?_⟩⟩, fun x hc => ?_⟩
    · simpa [ho] using (hr r h).2
    · rcases hn with hc | hc
      · have := (hx x).1
        rw [hc] at this
        exact (hrec x n).mp this
      · have := (hx x).2
        rw [hc] at this
        exact (hrec x n).mp this
    · have := (hx x).1
      rw [hc] at this
      simpa using this
  · rintro ⟨h, hplain⟩
    simp only [State.matched, Bool.and_eq_true, List.all_eq_true (l := s.records), hfirst, hall, e, beq_iff_eq]
    refine ⟨fun r hr => ⟨⟨⟨h.sending r hr (by simp), h.awaiting r hr (by simp)⟩, h.first r hr⟩, ?_⟩, fun x => ⟨?_, ?_⟩⟩
    · have := h.sides r hr
      by_cases ho : r.origin = .forward <;> simp_all
    · cases hc : (s.port x).choice with
      | none => rfl
      | some c =>
        cases c with
        | record n => exact (hrec x n).mpr (h.named x n (.inl hc)).2
        | plain => simpa using hplain x hc
    · cases hc : (s.port x).awaited with
      | none => rfl
      | some n => exact (hrec x n).mpr (h.named x n (.inr hc)).2

namespace Agrees

variable {loose : Set Nat} {port port' : Side → Port} {rs : List Record}

/-- A record that is neither SENDING nor AWAITING is named by no port. -/
theorem not_named (h : Agrees loose port rs) (ha : ascending Record.number rs = true) {r : Record} (hr : r ∈ rs)
    (hl : r.number ∉ loose) (h1 : r.state ≠ .sending) (h2 : r.state ≠ .awaiting) (x : Side) :
    ¬ (port x).Names r.number := by
  intro hx
  obtain ⟨q, hq, hqn, rfl⟩ := (h.named x _ hx).2
  obtain rfl := ascending_unique ha hq hr hqn
  rcases hx with hx | hx
  · exact h1 ((h.sending q hq hl).mpr hx)
  · exact h2 ((h.awaiting q hq hl).mpr hx)

/-- A record is named by the port of its out side alone. -/
theorem outSide_of_names (h : Agrees loose port rs) (ha : ascending Record.number rs = true) {r : Record} (hr : r ∈ rs)
    {x : Side} (hx : (port x).Names r.number) : r.outSide = x := by
  obtain ⟨q, hq, hqn, rfl⟩ := (h.named x _ hx).2
  rw [ascending_unique ha hq hr hqn]

/-- With no record of a number held, it does not matter whether the number is loose. -/
theorem missing (h : Agrees loose port rs) {n : Nat} (hn : ∀ r ∈ rs, r.number ≠ n) : Agrees (loose \ {n}) port rs where
  sending r hr hl := h.sending r hr fun hc => hl ⟨hc, hn r hr⟩
  awaiting r hr hl := h.awaiting r hr fun hc => hl ⟨hc, hn r hr⟩
  first := h.first
  sides := h.sides
  named x m hm := ⟨fun hc => (h.named x m hm).1 hc.1, (h.named x m hm).2⟩

/-- A change of the ports that leaves which records they have chosen and await leaves the agreement. -/
theorem congr_ports (h : Agrees loose port rs)
    (hc : ∀ x n, (port' x).choice = some (.record n) ↔ (port x).choice = some (.record n))
    (ha : ∀ x, (port' x).awaited = (port x).awaited) : Agrees loose port' rs where
  sending r hr hl := by rw [hc]; exact h.sending r hr hl
  awaiting r hr hl := by rw [ha]; exact h.awaiting r hr hl
  first := h.first
  sides := h.sides
  named x n hx := h.named x n (by rwa [Port.Names, hc, ha] at hx)

/-- With no loose number left the agreement is whole. -/
theorem tighten (h : Agrees loose port rs) (hl : ∀ n, n ∉ loose) : Agrees ∅ port rs :=
  Set.eq_empty_iff_forall_notMem.mpr hl ▸ h

/-- A port gives up what it has chosen or awaits: the record it named is loose. -/
theorem loosen (h : Agrees ∅ port rs) (ha : ascending Record.number rs = true) {x : Side}
    (hx : ∀ n, ¬ (port' x).Names n) (hy : ∀ y, y ≠ x → port' y = port y) :
    Agrees {n | (port x).Names n} port' rs where
  sending r hr hl := by
    rw [h.sending r hr (by simp)]
    by_cases e : r.outSide = x
    · subst e
      exact iff_of_false (fun hc => hl (.inl hc)) fun hc => hx _ (.inl hc)
    · rw [hy _ e]
  awaiting r hr hl := by
    rw [h.awaiting r hr (by simp)]
    by_cases e : r.outSide = x
    · subst e
      exact iff_of_false (fun hc => hl (.inr hc)) fun hc => hx _ (.inr hc)
    · rw [hy _ e]
  first := h.first
  sides := h.sides
  named y n hn := by
    have e : y ≠ x := fun e => hx n (e ▸ hn)
    rw [hy y e] at hn
    obtain ⟨r, hr, rfl, rfl⟩ := (h.named y n hn).2
    refine ⟨fun hl => ?_, r, hr, rfl, rfl⟩
    obtain ⟨q, hq, hqn, hqx⟩ := (h.named x _ hl).2
    exact e (ascending_unique ha hr hq hqn.symm ▸ hqx)

/-- The record of a number is replaced by one that no port names, neither SENDING nor AWAITING; it is loose no longer. -/
theorem replace (h : Agrees loose port rs) {n : Nat} {r' : Record} (hn : r'.number = n)
    (hnot : ∀ x, ¬ (port x).Names n) (h1 : r'.state ≠ .sending) (h2 : r'.state ≠ .awaiting)
    (hsides : r'.origin = .forward → r'.inSide = r'.outSide.other)
    (hfirst : r'.state ≠ .queued → ∀ q ∈ rs, q.outSide = r'.outSide → q.destination = r'.destination → r'.stamp ≤ q.stamp)
    (hlast : ∀ q ∈ rs, q.state ≠ .queued → q.outSide = r'.outSide → q.destination = r'.destination → q.stamp ≤ r'.stamp) :
    Agrees (loose \ {n}) port (rs.map fun q => if q.number = n then r' else q) := by
  have hmem : ∀ q, q ∈ (rs.map fun q => if q.number = n then r' else q) → q = r' ∨ q ∈ rs ∧ q.number ≠ n := by
    intro q hq
    obtain ⟨p, hp, rfl⟩ := List.mem_map.mp hq
    split
    · exact .inl rfl
    · exact .inr ⟨hp, by assumption⟩
  refine ⟨fun r hr hl => ?_, fun r hr hl => ?_, fun r hr hs q hq ho hd => ?_, fun r hr => ?_, fun x m hm => ?_⟩
  · rcases hmem r hr with rfl | ⟨hr, e⟩
    · exact iff_of_false h1 fun hc => hnot _ (.inl (hn ▸ hc))
    · exact h.sending r hr fun hc => hl ⟨hc, e⟩
  · rcases hmem r hr with rfl | ⟨hr, e⟩
    · exact iff_of_false h2 fun hc => hnot _ (.inr (hn ▸ hc))
    · exact h.awaiting r hr fun hc => hl ⟨hc, e⟩
  · rcases hmem r hr with er | ⟨hr', -⟩ <;> rcases hmem q hq with eq | ⟨hq', -⟩
    · rw [er, eq]
    · subst er
      exact hfirst hs q hq' ho hd
    · subst eq
      exact hlast r hr' hs ho.symm hd.symm
    · exact h.first r hr' hs q hq' ho hd
  · rcases hmem r hr with rfl | ⟨hr, -⟩
    · exact hsides
    · exact h.sides r hr
  · obtain ⟨hl, r, hr, hrn, hx⟩ := h.named x m hm
    have e : m ≠ n := fun e => hnot x (e ▸ hm)
    refine ⟨fun hc => hl hc.1, r, List.mem_map.mpr ⟨r, hr, if_neg (hrn ▸ e)⟩, hrn, hx⟩

/-- A record that no port names is gone; its number is loose no longer. -/
theorem remove (h : Agrees loose port rs) {n : Nat} (hnot : ∀ x, ¬ (port x).Names n) :
    Agrees (loose \ {n}) port (rs.filter fun q => q.number != n) := by
  have hmem : ∀ {q}, q ∈ (rs.filter fun q => q.number != n) ↔ q ∈ rs ∧ q.number ≠ n := by simp
  refine ⟨fun r hr hl => ?_, fun r hr hl => ?_, fun r hr hs q hq => ?_, fun r hr => ?_, fun x m hm => ?_⟩
  · exact h.sending r (hmem.mp hr).1 fun hc => hl ⟨hc, (hmem.mp hr).2⟩
  · exact h.awaiting r (hmem.mp hr).1 fun hc => hl ⟨hc, (hmem.mp hr).2⟩
  · exact h.first r (hmem.mp hr).1 hs q (hmem.mp hq).1
  · exact h.sides r (hmem.mp hr).1
  · obtain ⟨hl, r, hr, rfl, hx⟩ := h.named x m hm
    exact ⟨fun hc => hl hc.1, r, hmem.mpr ⟨hr, fun e => hnot x (e ▸ hm)⟩, rfl, hx⟩

/-- A new QUEUED record, newer than all, under a number not in use (R106, R108). -/
theorem insert (h : Agrees loose port rs) {r : Record} (hfree : ∀ q ∈ rs, q.number ≠ r.number)
    (hs : r.state = .queued) (hsides : r.origin = .forward → r.inSide = r.outSide.other)
    (hnew : ∀ q ∈ rs, q.stamp ≤ r.stamp) : Agrees loose port (insertBy Record.number r rs) := by
  have hnot : ∀ x, ¬ (port x).Names r.number := fun x hx => by
    obtain ⟨q, hq, e, -⟩ := (h.named x _ hx).2
    exact hfree q hq e
  refine ⟨fun q hq hl => ?_, fun q hq hl => ?_, fun q hq hqs p hp ho hd => ?_, fun q hq => ?_, fun x m hm => ?_⟩
  · rcases mem_insertBy hq with rfl | hq
    · exact iff_of_false (by simp [hs]) fun hc => hnot _ (.inl hc)
    · exact h.sending q hq hl
  · rcases mem_insertBy hq with rfl | hq
    · exact iff_of_false (by simp [hs]) fun hc => hnot _ (.inr hc)
    · exact h.awaiting q hq hl
  · rcases mem_insertBy hq with e | hq'
    · exact absurd (e ▸ hs) hqs
    · rcases mem_insertBy hp with e | hp'
      · exact e ▸ hnew q hq'
      · exact h.first q hq' hqs p hp' ho hd
  · rcases mem_insertBy hq with rfl | hq
    · exact hsides
    · exact h.sides q hq
  · obtain ⟨hl, q, hq, rfl, hx⟩ := h.named x m hm
    exact ⟨hl, q, mem_insertBy_of_mem hq (hfree q hq), rfl, hx⟩

/-- A change of records in nothing but their marks leaves the agreement. -/
theorem remark (h : Agrees loose port rs) {f : Record → Record} (hf : ∀ q, ∃ m, f q = { q with mark := m }) :
    Agrees loose port (rs.map f) := by
  obtain ⟨mark, hmark⟩ := Classical.skolem.mp hf
  obtain rfl : f = fun q => { q with mark := mark q } := funext hmark
  refine ⟨?_, ?_, ?_, ?_, fun x n hx => ?_⟩
  · simpa only [List.forall_mem_map] using h.sending
  · simpa only [List.forall_mem_map] using h.awaiting
  · simpa only [List.forall_mem_map] using h.first
  · simpa only [List.forall_mem_map] using h.sides
  · obtain ⟨hl, r, hr, hrn, hrx⟩ := h.named x n hx
    exact ⟨hl, _, List.mem_map_of_mem hr, hrn, hrx⟩

/-- A port that names no other record takes one of its side, or goes on from sending it to awaiting its reply (R27, R33). -/
theorem take (h : Agrees ∅ port rs) (ha : ascending Record.number rs = true) {r : Record} (hr : r ∈ rs)
    {st : RecordState} (hx : ∀ m, (port r.outSide).Names m → m = r.number)
    (hy : ∀ y, y ≠ r.outSide → port' y = port y)
    (h1 : ∀ m, (port' r.outSide).choice = some (.record m) ↔ st = .sending ∧ m = r.number)
    (h2 : ∀ m, (port' r.outSide).awaited = some m ↔ st = .awaiting ∧ m = r.number)
    (hfirst : ∀ q ∈ rs, q.outSide = r.outSide → q.destination = r.destination → r.stamp ≤ q.stamp) :
    Agrees ∅ port' (rs.map fun q => if q.number = r.number then { q with state := st } else q) := by
  have hmem : ∀ q ∈ (rs.map fun q => if q.number = r.number then { q with state := st } else q),
      q = { r with state := st } ∨ q ∈ rs ∧ q.number ≠ r.number := by
    intro q hq
    obtain ⟨p, hp, rfl⟩ := List.mem_map.mp hq
    split
    · rename_i e
      exact .inl (by rw [ascending_unique ha hp hr e])
    · exact .inr ⟨hp, by assumption⟩
  -- a record of another number is held by its port as before
  have hother : ∀ q ∈ rs, q.number ≠ r.number →
      ((port' q.outSide).choice = some (.record q.number) ↔ (port q.outSide).choice = some (.record q.number))
      ∧ ((port' q.outSide).awaited = some q.number ↔ (port q.outSide).awaited = some q.number) := by
    intro q hq e
    by_cases ho : q.outSide = r.outSide
    · rw [ho, h1, h2]
      exact ⟨iff_of_false (fun hc => e hc.2) fun hc => e (hx _ (.inl hc)),
        iff_of_false (fun hc => e hc.2) fun hc => e (hx _ (.inr hc))⟩
    · rw [hy _ ho]
      exact ⟨Iff.rfl, Iff.rfl⟩
  refine ⟨fun q hq _ => ?_, fun q hq _ => ?_, fun q hq hs p hp ho hd => ?_, fun q hq => ?_, fun y m hm => ⟨by simp, ?_⟩⟩
  · rcases hmem q hq with rfl | ⟨hq, e⟩
    · simp [h1]
    · rw [(hother q hq e).1, h.sending q hq (by simp)]
  · rcases hmem q hq with rfl | ⟨hq, e⟩
    · simp [h2]
    · rw [(hother q hq e).2, h.awaiting q hq (by simp)]
  · rcases hmem q hq with eq | ⟨hq', -⟩ <;> rcases hmem p hp with ep | ⟨hp', -⟩
    · rw [eq, ep]
    · subst eq
      exact hfirst p hp' ho hd
    · subst ep
      exact h.first q hq' hs r hr ho hd
    · exact h.first q hq' hs p hp' ho hd
  · rcases hmem q hq with rfl | ⟨hq, -⟩
    · exact h.sides r hr
    · exact h.sides q hq
  · have hold : ∀ q ∈ rs, ∃ p ∈ (rs.map fun q => if q.number = r.number then { q with state := st } else q),
        p.number = q.number ∧ p.outSide = q.outSide := fun q hq =>
      ⟨_, List.mem_map_of_mem hq, by split <;> rfl, by split <;> rfl⟩
    by_cases e : y = r.outSide
    · subst e
      obtain ⟨p, hp, hpn, hpo⟩ := hold r hr
      exact ⟨p, hp, hpn.trans (hm.elim (fun hc => ((h1 m).mp hc).2) fun hc => ((h2 m).mp hc).2).symm, hpo⟩
    · rw [hy y e] at hm
      obtain ⟨q, hq, rfl, rfl⟩ := (h.named y m hm).2
      exact hold q hq

end Agrees
end Sys2Proof.Machine
end

section
/-! SUPPORT. The laws of the ports as one predicate, and what the shared operations and the Delivery Engine do to them. -/

namespace Sys2Proof.Machine

/-! ## Ports, plain queues and records -/

/-- The ports and the plain queues. -/
def State.sides (s : State) : Port × Port × List PlainEntry × List PlainEntry := (s.portA, s.portB, s.queueA, s.queueB)

/-- The ports, the plain queues and the records: all that the laws of the ports speak of. -/
def State.lines (s : State) : (Port × Port × List PlainEntry × List PlainEntry) × List Record := (s.sides, s.records)

theorem port_of_sides {s t : State} (h : t.sides = s.sides) : t.port = s.port := by
  simp only [State.sides, Prod.mk.injEq] at h
  exact funext (port_congr h.1 h.2.1)

theorem queue_of_sides {s t : State} (h : t.sides = s.sides) : t.queue = s.queue := by
  simp only [State.sides, Prod.mk.injEq] at h
  exact funext (queue_congr h.2.2.1 h.2.2.2)

theorem sides_of_lines {s t : State} (h : t.lines = s.lines) : t.sides = s.sides := (Prod.mk.inj h).1

theorem records_of_lines {s t : State} (h : t.lines = s.lines) : t.records = s.records := (Prod.mk.inj h).2

theorem port_of_lines {s t : State} (h : t.lines = s.lines) : t.port = s.port := port_of_sides (sides_of_lines h)

/-- The numbers are a matter of the records alone (R106). -/
theorem numbered_of_records {s t : State} (h : t.records = s.records) : t.numbered = s.numbered := by
  simp only [State.numbered, h]

theorem KeepsAtRecordEnd.sides {s t : State} (h : KeepsAtRecordEnd s t) : t.sides = s.sides := by
  simp only [State.sides, h.portA, h.portB, h.queues.1, h.queues.2]

/-! ## The laws of the ports -/

/-- Both ports are legal, and in full also: records have descriptors of their own and agree with the ports, and a port has
chosen the head of its plain queue only when there is one (R19, R20, R29, R106, R110, R111). -/
structure PortLaws (full : Prop) (s : State) : Prop where
  legal : ∀ x, LegalPort (s.port x)
  numbered : full → s.numbered = true
  agrees : full → Agrees ∅ s.port s.records
  plain : full → ∀ x, (s.port x).choice = some .plain → s.queue x ≠ []

theorem portsLegal_iff (s : State) : s.portsLegal = true ↔ PortLaws False s := by
  simp only [State.portsLegal, Bool.and_eq_true, legal_iff]
  exact ⟨fun h => ⟨fun x => by cases x; exacts [h.1, h.2], nofun, nofun, nofun⟩, fun h => ⟨h.legal .a, h.legal .b⟩⟩

theorem lawful_iff (s : State) :
    (s.portsLegal = true ∧ s.numbered = true ∧ s.matched = true) ↔ PortLaws True s := by
  rw [portsLegal_iff]
  constructor
  · rintro ⟨h, hn, hm⟩
    obtain ⟨ha, hp⟩ := (matched_iff hn).mp hm
    exact ⟨h.legal, fun _ => hn, fun _ => ha, fun _ => hp⟩
  · intro h
    have hn := h.numbered trivial
    exact ⟨⟨h.legal, nofun, nofun, nofun⟩, hn, (matched_iff hn).mpr ⟨h.agrees trivial, h.plain trivial⟩⟩

namespace PortLaws

variable {full : Prop} {s t : State}

/-- A change of other blocks keeps the laws of the ports. -/
theorem of_lines (h : PortLaws full s) (e : t.lines = s.lines) : PortLaws full t := by
  have es := sides_of_lines e
  have er := records_of_lines e
  obtain ⟨h1, h2, h3, h4⟩ := h
  exact ⟨port_of_sides es ▸ h1, numbered_of_records er ▸ h2, port_of_sides es ▸ er ▸ h3,
    port_of_sides es ▸ queue_of_sides es ▸ h4⟩

theorem elapse (h : PortLaws full s) (dt : Nat) : PortLaws full (elapse dt s) := h.of_lines rfl
theorem reach (h : PortLaws full s) (m : Nat) : PortLaws full (reach m s) := h.of_lines rfl
theorem latch (h : PortLaws full s) (e : Event) : PortLaws full (latch e s) := h.of_lines rfl
theorem count (h : PortLaws full s) (c : Counter) : PortLaws full (count c s) := h.of_lines rfl
theorem claimCells (h : PortLaws full s) (n : Nat) : PortLaws full (claimCells n s) := h.of_lines rfl
theorem putStation (h : PortLaws full s) (e : StationEntry) : PortLaws full (putStation e s) := h.of_lines rfl

theorem ascending (h : PortLaws full s) (hf : full) : ascending Record.number s.records = true :=
  ((numbered_iff s).mp (h.numbered hf)).1

/-- A port that is IDLE or DOWN names no record (R20). -/
theorem names_none (h : PortLaws full s) {x : Side} (hs : (s.port x).state = .idle ∨ (s.port x).state = .down) (n : Nat) :
    ¬ (s.port x).Names n := by
  have l := h.legal x
  have hc : (s.port x).choice = none := l.choice_none (by grind) (by grind) (by grind)
  have ha : (s.port x).awaited = none := l.awaited.mpr (by grind)
  simp [Port.Names, hc, ha]

/-- A port changes, but not what it has chosen and awaits. -/
theorem setPort (h : PortLaws full s) {x : Side} {p : Port} (hp : LegalPort p) (hc : p.choice = (s.port x).choice)
    (ha : p.awaited = (s.port x).awaited) : PortLaws full (setPort x p s) where
  legal y := by
    rw [port_setPort]
    split
    exacts [hp, h.legal y]
  numbered hf := numbered_setPort x p s ▸ h.numbered hf
  agrees hf := by
    rw [setPort_records]
    refine (h.agrees hf).congr_ports (fun y n => ?_) fun y => ?_ <;> rw [port_setPort] <;> split <;> simp_all
  plain hf y hy := by
    rw [queue_setPort]
    refine h.plain hf y ?_
    rw [port_setPort] at hy
    split at hy <;> simp_all

/-- A plain queue changes, and is not emptied while its port has chosen its head. -/
theorem setQueue (h : PortLaws full s) {x : Side} {q : List PlainEntry}
    (hq : full → (s.port x).choice = some .plain → q ≠ []) : PortLaws full (setQueue x q s) where
  legal y := port_setQueue x y q s ▸ h.legal y
  numbered hf := (numbered_of_records (setQueue_records x q s)).trans (h.numbered hf)
  agrees hf := by
    rw [setQueue_records]
    exact (h.agrees hf).congr_ports (fun y n => by rw [port_setQueue]) fun y => by rw [port_setQueue]
  plain hf y hy := by
    rw [port_setQueue] at hy
    rw [queue_setQueue]
    split
    · rename_i e
      exact hq hf (e ▸ hy)
    · exact h.plain hf y hy

/-- Port X gives up what it has chosen or awaits, and the record it named is dealt with. -/
theorem release (h : PortLaws full s) {x : Side} {p : Port} (hp : LegalPort p)
    (hpn : full → p.choice ≠ some .plain ∧ ∀ n, ¬ p.Names n) (htp : t.port = (Machine.setPort x p s).port)
    (htq : ∀ y, y ≠ x → t.queue y = s.queue y) (htn : full → t.numbered = true)
    (htr : full → Agrees {n | (s.port x).Names n} (Machine.setPort x p s).port s.records →
      Agrees ∅ (Machine.setPort x p s).port t.records) : PortLaws full t where
  legal y := by
    rw [htp, port_setPort]
    split
    exacts [hp, h.legal y]
  numbered := htn
  agrees hf := by
    rw [htp]
    refine htr hf ((h.agrees hf).loosen (h.ascending hf) (by simpa using (hpn hf).2) fun y hy => ?_)
    rw [port_setPort, if_neg hy]
  plain hf y hy := by
    rw [htp, port_setPort] at hy
    split at hy
    · exact absurd hy (hpn hf).1
    · rename_i hne
      rw [htq y hne]
      exact h.plain hf y hy

/-- A port that named no record gives up what it has chosen. -/
theorem release_none (h : PortLaws full s) {x : Side} {p : Port} (hp : LegalPort p)
    (hpn : full → p.choice ≠ some .plain ∧ ∀ n, ¬ p.Names n) (hx : full → ∀ n, ¬ (s.port x).Names n) :
    PortLaws full (Machine.setPort x p s) :=
  h.release hp hpn rfl (fun y _ => queue_setPort x y p s) (fun hf => numbered_setPort x p s ▸ h.numbered hf)
    fun hf ha => by
      rw [setPort_records]
      exact ha.tighten (hx hf)

/-- The ends of records touch no port, so the laws stand when the records agree again. -/
theorem of_records (h : PortLaws full s) (ht : t.sides = s.sides) (htn : full → t.numbered = true)
    (htr : full → Agrees ∅ s.port t.records) : PortLaws full t where
  legal := port_of_sides ht ▸ h.legal
  numbered := htn
  agrees := port_of_sides ht ▸ htr
  plain := port_of_sides ht ▸ queue_of_sides ht ▸ h.plain

/-! ## The arbiter and new records -/

theorem arbitrate (h : PortLaws full s) (x : Side) : PortLaws full (arbitrate x s) := by
  rcases arbitrate_cases x s with e | ⟨hi, r, hr, e⟩ | ⟨hi, hq, e⟩ <;> rw [e]
  · exact h
  · obtain ⟨hm, rfl, hel⟩ := candidate_spec hr
    obtain ⟨-, hfirst⟩ := eligible_spec hel
    have hside : (chooseRecord r.outSide r s).sides
        = (Machine.setPort r.outSide ((s.port r.outSide).choose (.record r.number) .confirmed) s).sides := rfl
    have hport := port_of_sides hside
    have hrec : (chooseRecord r.outSide r s).records
        = s.records.map fun q => if q.number = r.number then { q with state := .sending } else q := by simp [chooseRecord]
    refine ⟨fun y => ?_, fun hf => e ▸ numbered_arbitrate _ (h.numbered hf), fun hf => ?_, fun hf y hy => ?_⟩
    · rw [hport, port_setPort]
      split
      exacts [(h.legal _).choose hi _ _, h.legal y]
    · rw [hrec]
      refine (h.agrees hf).take (h.ascending hf) hm (st := .sending)
        (fun m hn => absurd hn (h.names_none (.inl hi) m)) (fun y hy => ?_) ?_ ?_ hfirst
      · rw [hport, port_setPort, if_neg hy]
      · simp [hport, Port.choose, eq_comm]
      · simp [hport, Port.choose, (h.legal r.outSide).awaited.mpr (by simp [hi])]
    · rw [hport, port_setPort] at hy
      split at hy
      · simp [Port.choose] at hy
      · rw [queue_of_sides hside, queue_setPort]
        exact h.plain hf y hy
  · refine ⟨fun y => ?_, fun hf => e ▸ numbered_arbitrate _ (h.numbered hf), fun hf => ?_, fun hf y hy => ?_⟩
    · rw [choosePlain, port_setPort]
      split
      exacts [(h.legal x).choose hi _ _, h.legal y]
    · have hc : (s.port x).choice = none := (h.legal x).choice_none (by simp [hi]) (by simp [hi]) (by simp [hi])
      rw [choosePlain, setPort_records]
      refine (h.agrees hf).congr_ports (fun y n => ?_) fun y => ?_ <;> rw [port_setPort] <;> split
      · simp_all [Port.choose]
      · rfl
      · simp_all [Port.choose]
      · rfl
    · rw [choosePlain, port_setPort] at hy
      rw [choosePlain, queue_setPort]
      split at hy
      · simp_all
      · exact h.plain hf y hy

theorem arbitrateBoth (h : PortLaws full s) : PortLaws full (arbitrateBoth s) := (h.arbitrate .a).arbitrate .b

/-- A new QUEUED record takes a free descriptor (R106, R108). -/
theorem insertRecord (h : PortLaws full s) {r : Record} (hd : full → 1 ≤ s.freeDescriptors)
    (hn : r.number = s.lowestFree) (hst : r.stamp = s.newStamp) (hq : r.state = .queued)
    (hsides : r.origin = .forward → r.inSide = r.outSide.other) : PortLaws full (insertRecord r s) := by
  refine h.of_records rfl (fun hf => ?_) fun hf => ?_ <;> obtain ⟨h64, hfree⟩ := lowestFree_spec (hd hf)
  · exact numbered_insertRecord r (hn ▸ h64) (h.numbered hf)
  · exact (h.agrees hf).insert (hn ▸ hfree) hq hsides fun q hq => hst ▸ (newStamp_spec hq).le

end PortLaws

/-! ## The ends and the returns of records -/

/-- What ends a record reads no port: with any ports that do not name the record the agreement stands, since a FORWARD
record has become a QUEUED NOTICE, and a RELAY record is gone (R123). -/
theorem Agrees.endUndelivered {loose : Set Nat} {port : Side → Port} {v : State} (h : Agrees loose port v.records)
    (r : Record) (why : EndReason) (hnot : ∀ x, ¬ (port x).Names r.number) :
    Agrees (loose \ {r.number}) port (endUndelivered r why v).records := by
  unfold Machine.endUndelivered
  split
  · rw [convertToNotice_records, updateRecord_records]
    exact h.replace rfl hnot nofun nofun nofun (fun hq => absurd rfl hq) fun q hq _ _ _ => (newStamp_spec hq).le
  · rw [failRelay_records, removeRecord_records]
    exact h.remove hnot

/-- `w` is what is left of `v` when record `n` has ended, or waits, or is QUEUED again: ports and plain queues are as they
were, and with any ports that do not name the record the agreement stands again. -/
structure Disposed (full : Prop) (n : Nat) (v w : State) : Prop where
  sides : w.sides = v.sides
  numbered : full → w.numbered = true
  agrees : full → ∀ {loose : Set Nat} {port : Side → Port}, Agrees loose port v.records →
    (∀ x, ¬ (port x).Names n) → Agrees (loose \ {n}) port w.records

namespace Disposed

variable {full : Prop} {v w : State} {n : Nat}

/-- There is no such record. -/
theorem missing (hv : full → v.numbered = true) (hn : v.record? n = none) : Disposed full n v v :=
  ⟨rfl, hv, fun _ _ _ h _ => h.missing (record?_none hn)⟩

theorem endUndelivered (hv : full → v.numbered = true) (r : Record) (why : EndReason) :
    Disposed full r.number v (endUndelivered r why v) :=
  ⟨(endUndelivered_keeps r why v).sides, fun hf => numbered_endUndelivered r why (hv hf),
    fun _ _ _ h => h.endUndelivered r why⟩

theorem deliver (hv : full → v.numbered = true) (r : Record) : Disposed full r.number v (deliver r v) := by
  refine ⟨(deliver_keeps r v).sides, fun hf => numbered_deliver r (hv hf), fun _ _ _ h hnot => ?_⟩
  rw [deliver_records, removeRecord_records]
  exact h.remove hnot

/-- A record returns to the queue, or waits; a record that waits was not QUEUED before (R119, R129). -/
theorem rest (hv : full → v.numbered = true) {r r' : Record} (hr : v.record? n = some r)
    (hkeep : r'.number = r.number ∧ r'.origin = r.origin ∧ r'.destination = r.destination ∧ r'.inSide = r.inSide
      ∧ r'.outSide = r.outSide ∧ r'.stamp = r.stamp)
    (h1 : r'.state ≠ .sending) (h2 : r'.state ≠ .awaiting) (hs : full → r'.state ≠ .queued → r.state ≠ .queued) :
    Disposed full n v (updateRecord n (fun _ => r') v) := by
  obtain ⟨hm, rfl⟩ := record?_mem hr
  obtain ⟨e1, e2, e3, e4, e5, e6⟩ := hkeep
  refine ⟨rfl, fun hf => numbered_updateRecord _ _ (fun _ _ => e1) (hv hf), fun hf _ _ h hnot => ?_⟩
  refine h.replace e1 hnot h1 h2 ?_ ?_ ?_ <;> simp only [e2, e3, e4, e5, e6]
  · exact h.sides r hm
  · exact fun hq => h.first r hm (hs hf hq)
  · exact fun q hq hqs ho hd => h.first q hq hqs r hm ho.symm hd.symm

/-- A record that has been sent waits for its next attempt (R119). -/
theorem holdRecord (hv : full → v.numbered = true) {r r' : Record} (hr : v.record? n = some r)
    (hkeep : r'.number = r.number ∧ r'.origin = r.origin ∧ r'.destination = r.destination ∧ r'.inSide = r.inSide
      ∧ r'.outSide = r.outSide ∧ r'.stamp = r.stamp) (hs : full → r.state ≠ .queued) (ms : Nat) :
    Disposed full n v (holdRecord r' ms v) := by
  have h := rest hv hr (r' := { r' with state := .waiting (v.now + ms * Config.millisecond) }) hkeep nofun nofun
    fun hf _ => hs hf
  rw [← (record?_mem hr).2, ← hkeep.1] at h ⊢
  exact h

/-- An attempt ends with no reply or without access (R117, R118, R122). -/
theorem outcomeFailed (hv : full → v.numbered = true) {r : Record} (hr : v.record? n = some r)
    (hs : full → r.state ≠ .queued) (why : EndReason) : Disposed full n v (outcomeFailed r why v) := by
  rcases outcomeFailed_cases r why v with ⟨why', e⟩ | e <;> rw [e]
  · exact (record?_mem hr).2 ▸ endUndelivered hv { r with attempts := r.attempts + 1 } why'
  · exact holdRecord hv hr (r' := { r with attempts := r.attempts + 1 }) ⟨rfl, rfl, rfl, rfl, rfl, rfl⟩ hs _

/-- Every outcome of a slot disposes of the awaited record (R114 to R117). -/
theorem slotOutcome (hv : full → v.numbered = true) (hs : full → ∀ r, v.record? n = some r → r.state ≠ .queued)
    (o : SlotOutcome) : Disposed full n v (slotOutcome o n v) := by
  unfold Machine.slotOutcome
  cases hr : v.record? n with
  | none => exact missing hv hr
  | some r =>
    have e := (record?_mem hr).2
    have hsr := fun hf => hs hf r hr
    cases o with
    | ack => exact e ▸ deliver hv r
    | busy =>
      rcases outcomeBusy_cases r v with ⟨why, eb⟩ | eb <;> simp only [eb]
      · exact e ▸ endUndelivered hv { r with busyCount := r.busyCount + 1 } why
      · exact holdRecord hv hr (r' := { r with busyCount := r.busyCount + 1 }) ⟨rfl, rfl, rfl, rfl, rfl, rfl⟩ hsr _
    | reject reason =>
      simp only [outcomeReject]
      split
      · exact e ▸ endUndelivered hv r _
      · exact e ▸ endUndelivered hv { r with rejectReason := some reason } _
    | noReply => exact outcomeFailed hv hr hsr _

/-- The 16th loss disposes of the record that the port was sending (R118). -/
theorem outcomeNoAccess (hv : full → v.numbered = true) (hs : full → ∀ r, v.record? n = some r → r.state ≠ .queued) :
    Disposed full n v (outcomeNoAccess n v) := by
  unfold Machine.outcomeNoAccess
  cases hr : v.record? n with
  | none => exact missing hv hr
  | some r => exact outcomeFailed hv hr (fun hf => hs hf r hr) _

/-- A change of the record of a number is the change of that one record, when numbers are used once. -/
theorem updateRecord_const (hv : v.numbered = true) {r : Record} (hr : v.record? n = some r) (f : Record → Record) :
    updateRecord n f v = updateRecord n (fun _ => f r) v := by
  obtain ⟨hm, rfl⟩ := record?_mem hr
  unfold updateRecord
  congr 1
  refine List.map_congr_left fun q hq => ?_
  split
  · rename_i e
    rw [ascending_unique ((numbered_iff v).mp hv).1 hq hm e]
  · rfl

/-- A record returns to the queue (R119, R129). -/
theorem requeue (hv : full → v.numbered = true) {r : Record} (hr : v.record? n = some r) :
    Disposed full n v (updateRecord n (fun r => { r with state := .queued }) v) := by
  have h := rest hv hr (r' := { r with state := .queued }) ⟨rfl, rfl, rfl, rfl, rfl, rfl⟩ nofun nofun
    fun _ hq => absurd rfl hq
  refine ⟨rfl, fun hf => ?_, fun hf => ?_⟩ <;>
    rw [updateRecord_const (hv hf) hr fun r => { r with state := .queued }]
  exacts [h.numbered hf, h.agrees hf]

/-- A record abandoned at line down is QUEUED again, or ends when it is marked (R129, R122). -/
theorem abandonRecord (hv : full → v.numbered = true) : Disposed full n v (abandonRecord n v) := by
  unfold Machine.abandonRecord
  cases hr : v.record? n with
  | none => exact missing hv hr
  | some r =>
    simp only
    split
    · exact (record?_mem hr).2 ▸ endUndelivered hv r _
    · exact requeue hv hr

/-- The ends of records read no port. -/
theorem setPort (h : Disposed full n v w) (x : Side) (p : Port) :
    Disposed full n (setPort x p v) (setPort x p w) := by
  refine ⟨?_, fun hf => numbered_setPort x p w ▸ h.numbered hf, fun hf _ _ ha hnot => ?_⟩
  · have hs := h.sides
    simp only [State.sides, Prod.mk.injEq] at hs
    obtain ⟨ea, eb, eqa, eqb⟩ := hs
    cases x <;> simp [State.sides, Machine.setPort, ea, eb, eqa, eqb]
  · rw [setPort_records] at ha ⊢
    exact h.agrees hf ha hnot

end Disposed

/-! ## Attempts and withdrawals -/

/-- A legal port names one record at most: what it has chosen, or what it awaits (R20). -/
theorem LegalPort.names_unique {p : Port} (h : LegalPort p) {m n : Nat} (hm : p.Names m) (hn : p.Names n) : m = n := by
  by_cases ha : p.state = .awaitReply
  · have hc := h.choice_none (by simp [ha]) (by simp [ha]) (by simp [ha])
    simp only [Port.Names, hc, reduceCtorEq, false_or] at hm hn
    exact Option.some.inj (hm.symm.trans hn)
  · simp only [Port.Names, h.awaited.mpr ha, reduceCtorEq, or_false] at hm hn
    exact Choice.record.inj (Option.some.inj (hm.symm.trans hn))

namespace PortLaws

variable {full : Prop} {s t : State}

/-- A record that a port names is SENDING or AWAITING, so not QUEUED (R110). -/
theorem not_queued_of_names (h : PortLaws full s) (hf : full) {x : Side} {r : Record} (hr : s.record? n = some r)
    (hn : (s.port x).Names n) : r.state ≠ .queued := by
  obtain ⟨hm, rfl⟩ := record?_mem hr
  intro hq
  exact (h.agrees hf).not_named (h.ascending hf) hm (by simp) (by simp [hq]) (by simp [hq]) x hn

/-- Port X gives up the record it names, and that is disposed of. -/
theorem dispose (h : PortLaws full s) {x : Side} {p : Port} (hp : LegalPort p)
    (hpn : full → p.choice ≠ some .plain ∧ ∀ n, ¬ p.Names n) {n : Nat} (hn : (s.port x).Names n)
    (hd : Disposed full n (Machine.setPort x p s) t) : PortLaws full t := by
  refine h.release hp hpn (port_of_sides hd.sides) (fun y _ => ?_) hd.numbered fun hf ha => ?_
  · rw [queue_of_sides hd.sides, queue_setPort]
  · rw [← setPort_records x p s] at ha
    refine (hd.agrees hf ha fun y hy => ?_).tighten fun m hm => hm.2 ((h.legal x).names_unique hm.1 hn)
    rw [port_setPort] at hy
    split at hy
    · exact (hpn hf).2 n hy
    · rename_i hne
      obtain ⟨-, r, hr, rfl, hrx⟩ := (h.agrees hf).named x n hn
      exact hne ((h.agrees hf).outSide_of_names (h.ascending hf) hr hy ▸ hrx)

/-- A record that no port names is disposed of. -/
theorem dispose_unnamed (h : PortLaws full s) {n : Nat} (hn : full → ∀ x, ¬ (s.port x).Names n)
    (hd : Disposed full n s t) : PortLaws full t :=
  h.of_records hd.sides hd.numbered fun hf => (hd.agrees hf (h.agrees hf) (hn hf)).tighten (by simp)

end PortLaws
end Sys2Proof.Machine
end

section
/-! SUPPORT. The laws of the ports through withdrawals, the forwarding decision and the segment reset. -/

namespace Sys2Proof.Machine

/-! ## Withdrawals -/

/-- A port that drops a chosen record in DEFER or REPLYING holds nothing any more (R32). -/
theorem LegalPort.dropChoice_holds_none {p : Port} (h : LegalPort p) (hs : p.state = .defer ∨ p.state = .replying) :
    p.dropChoice.choice = none ∧ p.dropChoice.awaited = none := by
  have ha : p.awaited = none := h.awaited.mpr (by rcases hs with hs | hs <;> simp [hs])
  rcases hs with hs | hs <;> simp [Port.dropChoice, Port.noChoice, hs, ha]

/-- A port that has chosen and awaits nothing names no record, and has no plain telegram chosen. -/
theorem Port.names_none_of {p : Port} (h : p.choice = none ∧ p.awaited = none) :
    p.choice ≠ some .plain ∧ ∀ n, ¬ p.Names n := by
  simp [Port.Names, h]

/-- Records other than the one that ends stay. -/
theorem mem_endUndelivered {s : State} {q r : Record} (hq : q ∈ s.records) (hn : q.number ≠ r.number) (why : EndReason) :
    q ∈ (endUndelivered r why s).records := by
  unfold endUndelivered
  split
  · rw [convertToNotice_records, updateRecord_records]
    exact List.mem_map.mpr ⟨q, hq, if_neg hn⟩
  · rw [failRelay_records, removeRecord_records]
    exact List.mem_filter.mpr ⟨hq, by simpa using hn⟩

@[simp] theorem dropRecordChoice_records (r : Record) (s : State) : (dropRecordChoice r s).records = s.records := by
  rcases dropRecordChoice_cases r s with e | ⟨-, e⟩ <;> simp [e]

/-- Records other than the one a cause reaches stay as they are. -/
theorem mem_withdraw {s : State} {q r : Record} (hq : q ∈ s.records) (hn : q.number ≠ r.number) (cause : Mark) :
    q ∈ (withdraw r cause s).records := by
  rcases withdraw_cases r cause s with ⟨-, e⟩ | ⟨-, e⟩ | ⟨-, e⟩ <;> rw [e]
  · exact hq
  · exact List.mem_map.mpr ⟨q, hq, if_neg hn⟩
  · exact mem_endUndelivered (by simpa using hq) hn _

/-- A record that a cause withdraws at once is not AWAITING, and when it is SENDING its port is not (R121). -/
theorem withdrawal_atOnce {s : State} {r : Record} (h : s.withdrawal r = .atOnce) :
    r.state ≠ .awaiting ∧ (r.state = .sending → (s.port r.outSide).state ≠ .sending) := by
  unfold State.withdrawal at h
  split at h
  · cases h
  · cases hs : r.state <;> simp_all

namespace PortLaws

variable {full : Prop} {s t : State}

theorem withdraw (h : PortLaws full s) {r : Record} (cause : Mark) (hr : full → r ∈ s.records) :
    PortLaws full (withdraw r cause s) := by
  rcases withdraw_cases r cause s with ⟨-, e⟩ | ⟨-, e⟩ | ⟨hw, e⟩ <;> rw [e]
  · exact h
  · refine h.of_records rfl (fun hf => numbered_updateRecord _ _ (fun _ hq => hq) (h.numbered hf)) fun hf => ?_
    refine (h.agrees hf).remark fun q => ?_
    split
    exacts [⟨_, rfl⟩, ⟨q.mark, rfl⟩]
  · obtain ⟨h1, h2⟩ := withdrawal_atOnce hw
    by_cases hc : (s.port r.outSide).choice = some (.record r.number)
    · rw [dropRecordChoice, if_pos hc]
      refine h.dispose (h.legal r.outSide).dropChoice (fun hf => ?_) (.inl hc)
        (.endUndelivered (fun hf => (numbered_setPort ..).trans (h.numbered hf)) r cause.reason)
      have hs := h2 (((h.agrees hf).sending r (hr hf) (by simp)).mpr hc)
      have := (h.legal r.outSide).of_choice hc
      exact Port.names_none_of ((h.legal r.outSide).dropChoice_holds_none (by simpa [hs] using this))
    · rw [dropRecordChoice, if_neg hc]
      refine h.dispose_unnamed (fun hf => ?_) (.endUndelivered h.numbered r cause.reason)
      refine (h.agrees hf).not_named (h.ascending hf) (hr hf) (by simp) (fun hs => ?_) h1
      exact hc (((h.agrees hf).sending r (hr hf) (by simp)).mp hs)

/-- A sweep reaches each record as it stood before the sweep, since it changes only the records it has reached (log 7). -/
theorem withdrawAll (h : PortLaws full s) (cause : Mark) {rs : List Record}
    (ha : full → Machine.ascending Record.number rs = true) (hr : full → ∀ r ∈ rs, r ∈ s.records) :
    PortLaws full (withdrawAll cause rs s) := by
  induction rs generalizing s with
  | nil => exact h
  | cons r rs ih =>
    refine ih (h.withdraw cause fun hf => hr hf r (by simp)) (fun hf => ((ascending_cons r rs).mp (ha hf)).2)
      fun hf q hq => mem_withdraw (hr hf q (by simp [hq])) ?_ cause
    exact Nat.ne_of_gt (((ascending_cons r rs).mp (ha hf)).1 q hq)

theorem withdrawAll_filter (h : PortLaws full s) (cause : Mark) (hit : Record → Bool) :
    PortLaws full (Machine.withdrawAll cause (s.records.filter hit) s) :=
  h.withdrawAll cause (fun hf => ascending_filter _ (h.ascending hf)) fun _ _ => List.mem_of_mem_filter

theorem routeCheck (h : PortLaws full s) (chosen : Record → Bool) : PortLaws full (routeCheck chosen s) :=
  (h.withdrawAll_filter .unrouted _).arbitrateBoth

theorem purgeRecords (h : PortLaws full s) (destination : Option Nat) (side : Option Side) :
    PortLaws full (purgeRecords destination side s) :=
  (h.withdrawAll_filter .purged _).arbitrateBoth

theorem learnHeard (h : PortLaws full s) (x : Side) (e : StationEntry) : PortLaws full (learnHeard x e s) := by
  unfold Machine.learnHeard
  dsimp only
  split
  · exact h.putStation _
  · exact ((h.putStation _).latch _).routeCheck _

theorem learn (h : PortLaws full s) (x : Side) (src : Nat) : PortLaws full (learn x src s) := by
  unfold Machine.learn learnNew
  split
  · split
    · split
      · exact h.putStation _
      · exact (h.count _).latch _
    · split
      · exact h
      · exact h.learnHeard x _
  · exact h

end PortLaws

/-! ## What withdrawals and arbiters do to a port's state -/

/-- A test of a port's state that does not tell IDLE from DEFER: the arbiter and the drop of a choice do not change it. -/
def Coarse (Q : PortState → Prop) : Prop := Q .idle ↔ Q .defer

namespace Coarse

variable {Q : PortState → Prop} (hQ : Coarse Q)
include hQ

theorem arbitrate (x y : Side) (s : State) : Q ((arbitrate y s).port x).state ↔ Q (s.port x).state := by
  rcases arbitrate_cases y s with e | ⟨hi, r, -, e⟩ | ⟨hi, -, e⟩ <;> rw [e]
  · have hs : (chooseRecord y r s).sides
        = (setPort y ((s.port y).choose (.record r.number) .confirmed) s).sides := rfl
    rw [port_of_sides hs, port_setPort]
    split
    · rename_i e
      rw [e, hi]
      exact hQ.symm
    · rfl
  · rw [choosePlain, port_setPort]
    split
    · rename_i e
      rw [e, hi]
      exact hQ.symm
    · rfl

theorem arbitrateBoth (x : Side) (s : State) : Q ((arbitrateBoth s).port x).state ↔ Q (s.port x).state :=
  (hQ.arbitrate x .b _).trans (hQ.arbitrate x .a s)

theorem dropChoice (p : Port) : Q p.dropChoice.state ↔ Q p.state := by
  unfold Port.dropChoice
  cases hs : p.state <;> simp only [hs]
  · exact hQ
  · rw [Port.noChoice, hs]

theorem withdraw (x : Side) (r : Record) (cause : Mark) (s : State) :
    Q ((withdraw r cause s).port x).state ↔ Q (s.port x).state := by
  rcases withdraw_cases r cause s with ⟨-, e⟩ | ⟨-, e⟩ | ⟨-, e⟩ <;> rw [e]
  · rw [port_congr (updateRecord_portA ..) (updateRecord_portB ..)]
  · rw [port_of_sides (endUndelivered_keeps r cause.reason _).sides]
    rcases dropRecordChoice_cases r s with e | ⟨-, e⟩ <;> rw [e]
    rw [port_setPort]
    split
    · rename_i e
      rw [e]
      exact hQ.dropChoice _
    · rfl

theorem withdrawAll (x : Side) (cause : Mark) (rs : List Record) (s : State) :
    Q ((withdrawAll cause rs s).port x).state ↔ Q (s.port x).state :=
  withdrawAll_induction (P := fun v => Q (v.port x).state ↔ Q (s.port x).state) cause rs
    (fun r v hv => (hQ.withdraw x r cause v).trans hv) Iff.rfl

theorem routeCheck (x : Side) (chosen : Record → Bool) (s : State) :
    Q ((routeCheck chosen s).port x).state ↔ Q (s.port x).state :=
  (hQ.arbitrateBoth x _).trans (hQ.withdrawAll x ..)

theorem learn (x y : Side) (src : Nat) (s : State) : Q ((learn y src s).port x).state ↔ Q (s.port x).state := by
  have same : ∀ {v : State}, v.sides = s.sides → (Q (v.port x).state ↔ Q (s.port x).state) := fun e => by
    rw [port_of_sides e]
  unfold Machine.learn learnNew
  split
  · split
    · split <;> exact same rfl
    · split
      · rfl
      · unfold learnHeard
        dsimp only
        split
        · exact same rfl
        · exact (hQ.routeCheck x _ _).trans (same rfl)
  · rfl

end Coarse

/-! ## Custody and the plain hand-off -/

theorem recordFinal_lines (x : Side) (t : Telegram) (reply : FinalReply) (s : State) :
    (recordFinal x t reply s).lines = s.lines := by
  have hroom : (makeDupRoom s).lines = s.lines := by
    unfold makeDupRoom
    split
    · split <;> rfl
    · rfl
  unfold recordFinal
  dsimp only
  split
  · rfl
  · exact hroom

theorem answerDuplicate_lines {x : Side} {t : Telegram} {s s' : State} {reply : FinalReply}
    (h : answerDuplicate x t s = some (reply, s')) : s'.lines = s.lines := by
  unfold answerDuplicate at h
  split at h
  · cases h
  · split at h
    · cases h
      rfl
    · cases h

theorem giveChosen_lines (x : Side) (t : Telegram) (reply : FinalReply) (s : State) :
    (giveChosen x t reply s).2.lines = s.lines := by
  unfold giveChosen
  split
  · exact answerDuplicate_lines (by assumption)
  · exact recordFinal_lines x t reply s

theorem acceptRequest_lines (x : Side) (t : Telegram) (s : State) : (acceptRequest x t s).2.lines = s.lines := by
  unfold acceptRequest
  split
  · exact answerDuplicate_lines (by assumption)
  · split
    · rfl
    · exact recordFinal_lines x t .ack (storeRequest x t s)

/-- Custody acceptance leaves the port of the arrival (R97). -/
theorem port_acceptCustody (x : Side) (t : Telegram) (admitted : Bool) (s : State) :
    (acceptCustody x t admitted s).2.port x = s.port x := by
  unfold acceptCustody
  split
  · exact congrFun (port_of_lines (answerDuplicate_lines (by assumption))) x
  · split
    · exact congrFun (port_of_lines (recordFinal_lines ..)) x
    · split
      · exact congrFun (port_of_lines (recordFinal_lines ..)) x
      · split
        · rfl
        · have := arbitrate_other x.other (recordFinal x t .ack (count .custodyAccepted
            (insertRecord (forwardRecord x t s) (claimCells (cellsFor t.payload.length) s))))
          rw [Side.other_other] at this
          exact this.trans (congrFun (port_of_lines (recordFinal_lines ..)) x)

namespace PortLaws

variable {full : Prop} {s : State}

theorem plainHandOff (h : PortLaws full s) (x : Side) (t : Telegram) : PortLaws full (plainHandOff x t s) := by
  unfold Machine.plainHandOff
  dsimp only
  split
  · exact h.count _
  · exact ((h.claimCells _).setQueue fun _ _ => by simp).arbitrate _

theorem acceptCustody (h : PortLaws full s) (x : Side) (t : Telegram) (admitted : Bool) :
    PortLaws full (acceptCustody x t admitted s).2 := by
  unfold Machine.acceptCustody
  split
  · exact h.of_lines (answerDuplicate_lines (by assumption))
  · split
    · exact h.of_lines (recordFinal_lines ..)
    · split
      · exact h.of_lines (recordFinal_lines ..)
      · split
        · exact h
        · rename_i hroom
          have hd : 1 ≤ s.freeDescriptors := by
            simp only [State.custodyRoom, Bool.not_eq_false, Bool.and_eq_true, decide_eq_true_eq] at hroom
            exact le_trans (by decide) hroom.1
          have hi := (h.claimCells (cellsFor t.payload.length)).insertRecord (r := forwardRecord x t s) (fun _ => hd) rfl
            rfl rfl fun _ => (Side.other_other x).symm
          exact ((hi.count .custodyAccepted).of_lines (recordFinal_lines ..)).arbitrate _

end PortLaws

/-! ## The segment reset -/

/-- Records that end one after another are gone or QUEUED again, with any ports that name none of them. -/
theorem Agrees.endAll {loose : Set Nat} {port : Side → Port} (why : EndReason) (rs : List Record) {v : State}
    (h : Agrees loose port v.records) (hnot : ∀ r ∈ rs, ∀ x, ¬ (port x).Names r.number) :
    Agrees {n | n ∈ loose ∧ ∀ r ∈ rs, n ≠ r.number} port
      (rs.foldl (fun s r => Machine.endUndelivered r why s) v).records := by
  induction rs generalizing loose v with
  | nil => simpa using h
  | cons r rs ih =>
    have h1 := ih (h.endUndelivered r why (hnot r (by simp))) fun q hq => hnot q (by simp [hq])
    have e : {n | n ∈ loose ∧ ∀ q ∈ r :: rs, n ≠ q.number} = {n | n ∈ loose \ {r.number} ∧ ∀ q ∈ rs, n ≠ q.number} := by
      ext n
      simp [and_assoc]
    rw [e]
    exact h1

theorem numbered_endAll (why : EndReason) (rs : List Record) {v : State} (h : v.numbered = true) :
    (rs.foldl (fun s r => endUndelivered r why s) v).numbered = true := by
  induction rs generalizing v with
  | nil => exact h
  | cons r rs ih => exact ih (numbered_endUndelivered r why h)

theorem sides_endAll (why : EndReason) (rs : List Record) (v : State) :
    (rs.foldl (fun s r => endUndelivered r why s) v).sides = v.sides := by
  induction rs generalizing v with
  | nil => rfl
  | cons r rs ih => exact (ih _).trans (endUndelivered_keeps r why v).sides

theorem flushQueue_lines (x : Side) (s : State) : (flushQueue x s).lines = (setQueue x [] s).lines := by
  unfold flushQueue
  split
  · rename_i e
    cases x <;> simp only [State.queue] at e <;> simp [State.lines, State.sides, setQueue, e]
  · rfl

theorem releaseHead_lines (x : Side) (s : State) : (releaseHead x s).lines = (setQueue x (s.queue x).tail s).lines := by
  unfold releaseHead
  split
  · rename_i e
    rw [e]
    cases x <;> simp only [State.queue] at e <;> simp [State.lines, State.sides, setQueue, e]
  · rename_i e
    rw [e]
    rfl

theorem segmentResetRequests_lines (x : Side) (s : State) : (segmentResetRequests x s).lines = s.lines := by
  unfold segmentResetRequests
  dsimp only
  split <;> rfl

theorem segmentResetSession_lines (x : Side) (s : State) : (segmentResetSession x s).lines = s.lines := by
  unfold segmentResetSession
  split <;> rfl

theorem segmentResetEvents_lines (x : Side) (s : State) : (segmentResetEvents x s).lines = s.lines := by
  unfold segmentResetEvents
  split <;> rfl

namespace PortLaws

variable {full : Prop} {s : State}

/-- The ports' and the Delivery Engine's part of a segment reset: what port X had chosen in DEFER ends with the other
records of its side (R38, R130). -/
theorem segmentResetRecords (h : PortLaws full s) {x : Side} (hx : (s.port x).state = .idle ∨ (s.port x).state = .defer) :
    PortLaws full (segmentResetRecords x (segmentResetPort x s)) := by
  obtain ⟨p, hp, hpc, v, hv, hvs⟩ : ∃ p, LegalPort p ∧ (p.choice = none ∧ p.awaited = none)
      ∧ ∃ v, segmentResetPort x s = v ∧ v.lines = (Machine.setQueue x [] (Machine.setPort x p s)).lines := by
    rcases hx with hx | hx
    · have l := h.legal x
      refine ⟨s.port x, l, ⟨l.choice_none (by simp [hx]) (by simp [hx]) (by simp [hx]), l.awaited.mpr (by simp [hx])⟩,
        _, rfl, ?_⟩
      have e : Machine.setPort x (s.port x) s = s := by cases x <;> rfl
      rw [e, segmentResetPort, hx]
      exact flushQueue_lines x s
    · refine ⟨(s.port x).dropChoice, (h.legal x).dropChoice, (h.legal x).dropChoice_holds_none (.inl hx), _, rfl, ?_⟩
      have e : (s.port x).dropChoice = { (s.port x).noChoice with state := .idle } := by simp [Port.dropChoice, hx]
      rw [e, segmentResetPort, hx]
      exact flushQueue_lines x _
  have hport : v.port = (Machine.setPort x p s).port := by
    rw [port_of_lines hvs]
    exact funext fun y => port_setQueue ..
  have hqueue : ∀ y, y ≠ x → v.queue y = s.queue y := fun y hy => by
    rw [queue_of_sides (sides_of_lines hvs), queue_setQueue, if_neg hy, queue_setPort]
  have hrec : v.records = s.records := (records_of_lines hvs).trans (by simp)
  have hnum : v.numbered = s.numbered := numbered_of_records hrec
  have hs : (Machine.segmentResetRecords x v).sides = v.sides := sides_endAll _ _ _
  rw [hv]
  refine h.release hp (fun _ => Port.names_none_of hpc) (by rw [port_of_sides hs, hport])
    (fun y hy => by rw [queue_of_sides hs, hqueue y hy]) (fun hf => numbered_endAll _ _ (hnum.trans (h.numbered hf)))
    fun hf ha => ?_
  rw [← hrec] at ha
  refine (ha.endAll .segmentReset (v.records.filter fun r => r.outSide == x) fun r hr y hy => ?_).tighten
    fun n ⟨hn, hno⟩ => ?_
  · simp only [List.mem_filter, beq_iff_eq] at hr
    have ho := ha.outSide_of_names ((numbered_iff v).mp (hnum.trans (h.numbered hf))).1 hr.1 hy
    rw [← ho, hr.2, port_setPort_self] at hy
    exact (Port.names_none_of hpc).2 _ hy
  · obtain ⟨-, r, hr, rfl, hrx⟩ := (h.agrees hf).named x n hn
    exact hno r (List.mem_filter.mpr ⟨hrec ▸ hr, by simpa using hrx⟩) rfl

theorem segmentReset (h : PortLaws full s) {x : Side} (hx : (s.port x).state = .idle ∨ (s.port x).state = .defer) :
    PortLaws full (segmentReset x s) := by
  refine PortLaws.arbitrateBoth (of_lines (h.segmentResetRecords hx) ?_)
  rw [segmentResetEvents_lines, segmentResetSession_lines, segmentResetRequests_lines]
  rfl

end PortLaws

/-- A segment reset changes a port's state only by a choice dropped or taken (R38). -/
theorem Coarse.segmentReset {Q : PortState → Prop} (hQ : Coarse Q) (x y : Side) (s : State) :
    Q ((segmentReset y s).port x).state ↔ Q (s.port x).state := by
  have hblocks : ∀ v, (segmentResetEvents y (segmentResetSession y (segmentResetRequests y
      (segmentResetDups y (segmentResetRecords y v))))).port = v.port := fun v => by
    rw [port_of_lines (segmentResetEvents_lines ..), port_of_lines (segmentResetSession_lines ..),
      port_of_lines (segmentResetRequests_lines ..)]
    exact port_of_sides (sides_endAll ..)
  refine (hQ.arbitrateBoth x _).trans ?_
  have hflush : ∀ v, ((latch (.segmentReset y) (flushQueue y v)).port x) = v.port x := fun v =>
    (congrFun (port_of_lines (flushQueue_lines y v)) x).trans (port_setQueue ..)
  rw [hblocks, segmentResetPort, hflush]
  split
  · rename_i hd
    rw [port_setPort]
    split
    · rename_i e
      rw [e, hd]
      exact hQ
    · rfl
  · rfl

end Sys2Proof.Machine
end

section
/-! SUPPORT. The laws of the ports through the forwarding decision, the end of a step, the due steps and every command. -/

namespace Sys2Proof.Machine

/-! ## The forwarding decision -/

/-- What a decision about an arrival on side X leaves: the laws of the ports stand, and port X is as it was but for a choice
taken or dropped. -/
structure Onward (full : Prop) (x : Side) (s v : State) : Prop where
  laws : PortLaws full v
  coarse : ∀ {Q : PortState → Prop}, Coarse Q → (Q (v.port x).state ↔ Q (s.port x).state)

namespace Onward

variable {full : Prop} {x : Side} {s v : State}

theorem of_port (h : PortLaws full v) (e : v.port x = s.port x) : Onward full x s v := ⟨h, fun _ => by rw [e]⟩

theorem of_lines (h : PortLaws full s) (e : v.lines = s.lines) : Onward full x s v :=
  of_port (h.of_lines e) (by rw [port_of_lines e])

theorem plainHandOff (h : PortLaws full s) (x : Side) (t : Telegram) : Onward full x s (plainHandOff x t s) := by
  refine of_port (h.plainHandOff x t) ?_
  unfold Machine.plainHandOff
  dsimp only
  split
  · exact port_countBy ..
  · have e := arbitrate_other x.other (setQueue x.other
      ((claimCells (cellsFor t.payload.length) s).queue x.other ++ [{ inSide := x, telegram := t }])
      (claimCells (cellsFor t.payload.length) s))
    rw [Side.other_other, port_setQueue] at e
    exact e.trans (port_congr rfl rfl x)

theorem acceptCustody (h : PortLaws full s) (x : Side) (t : Telegram) (admitted : Bool) :
    Onward full x s (acceptCustody x t admitted s).2 :=
  of_port (h.acceptCustody x t admitted) (port_acceptCustody x t admitted s)

theorem segmentReset (h : PortLaws full s) (hx : (s.port x).state = .idle ∨ (s.port x).state = .defer) :
    Onward full x s (segmentReset x s) :=
  ⟨h.segmentReset hx, fun hQ => hQ.segmentReset x x s⟩

theorem trans {w : State} (h : Onward full x s v) (k : Onward full x v w) : Onward full x s w :=
  ⟨k.laws, fun hQ => (k.coarse hQ).trans (h.coarse hQ)⟩

theorem toOwn (h : PortLaws full s) (x : Side) (t : Telegram) : Onward full x s (toOwn x t s).1 := by
  unfold Machine.toOwn
  split
  · exact of_lines h (acceptRequest_lines ..)
  · exact of_lines h (giveChosen_lines ..)
  all_goals first | exact of_lines h (giveChosen_lines ..) | exact of_lines h rfl

theorem sresetArrival (h : PortLaws full s) (hx : (s.port x).state = .idle ∨ (s.port x).state = .defer) (t : Telegram) :
    Onward full x s (sresetArrival x t s) := by
  have h1 := segmentReset h hx
  unfold Machine.sresetArrival
  dsimp only
  split
  · exact h1.trans (plainHandOff h1.laws x t)
  · exact h1

theorem toKnown (h : PortLaws full s) (x : Side) (t : Telegram) (e : StationEntry) :
    Onward full x s (toKnown x t e s).1 := by
  unfold Machine.toKnown
  split
  · exact of_lines h rfl
  · split
    · exact acceptCustody h x t _
    · split
      · exact plainHandOff h x t
      · exact of_lines h rfl

theorem toUnknown (h : PortLaws full s) (x : Side) (t : Telegram) : Onward full x s (toUnknown x t s).1 := by
  unfold Machine.toUnknown
  split
  · split
    · exact acceptCustody h x t _
    · exact plainHandOff h x t
  · exact of_lines h rfl
  · split
    · exact of_lines h (giveChosen_lines ..)
    · exact of_lines h rfl

theorem classify (h : PortLaws full s) (x : Side) (t : Telegram) : Onward full x s (classify x t s).1 := by
  unfold Machine.classify
  split
  · exact of_lines h rfl
  · split
    · split
      · exact plainHandOff h x t
      · exact of_lines h rfl
    · split
      · split
        · exact plainHandOff h x t
        · exact of_lines h rfl
      · split
        · exact toKnown h x t _
        · exact toUnknown h x t

/-- The stages after learning, for a port that awaits nothing (R46). -/
theorem dispose (h : PortLaws full s) (hx : (s.port x).state = .idle ∨ (s.port x).state = .defer) (t : Telegram) :
    Onward full x s (dispose x t s).1 := by
  unfold Machine.dispose
  rw [if_neg (by rcases hx with hx | hx <;> simp [hx])]
  split
  · exact of_lines h rfl
  · split
    · exact toOwn h x t
    · split
      · dsimp only
        exact sresetArrival h hx t
      · exact classify h x t

/-- The forwarding decision of a port that awaits nothing (R46). -/
theorem forward (h : PortLaws full s) (hx : (s.port x).state = .idle ∨ (s.port x).state = .defer) (t : Telegram) :
    Onward full x s (forward x t s).1 := by
  unfold Machine.forward
  split
  · dsimp only
    rw [if_neg (by rcases hx with hx | hx <;> simp [hx])]
    exact of_lines h rfl
  · have hl : Onward full x s (learn x t.src s) := ⟨h.learn x t.src, fun hQ => hQ.learn x x t.src s⟩
    refine hl.trans (dispose hl.laws ?_ t)
    exact (hl.coarse (Q := fun c => c = .idle ∨ c = .defer) (by simp [Coarse])).mpr hx

end Onward

/-! ## Receptions -/

namespace PortLaws

variable {full : Prop} {s : State} {x : Side}

/-- Port X in IDLE or DEFER begins a reply (R34). -/
theorem startReply (h : PortLaws full s) (hx : (s.port x).state = .idle ∨ (s.port x).state = .defer) (r : Reply) :
    PortLaws full (startReply x r s) :=
  h.setPort ((h.legal x).beginReply hx r _) rfl rfl

/-- The slot of an awaited record is over: whatever has become of the record, the port is IDLE (R37). -/
theorem awaitOver (h : PortLaws full s) (hx : (s.port x).state = .awaitReply) {n : Nat} {v : State}
    (ha : (s.port x).awaited = some n) (hd : Disposed full n s v) : PortLaws full (leaveAwait x v) := by
  have hv : (v.port x) = s.port x := congrFun (port_of_sides hd.sides) x
  rw [leaveAwait_awaiting (hv ▸ hx), Machine.awaitOver, hv]
  refine h.dispose ((h.legal x).endAwait hx) (fun _ => ?_) (.inr ha) (hd.setPort x _)
  refine Port.names_none_of ⟨?_, rfl⟩
  exact (h.legal x).choice_none (by simp [hx]) (by simp [hx]) (by simp [hx])

/-- A port that awaits a reply awaits that of a record (R20). -/
theorem exists_awaited (h : PortLaws full s) (hx : (s.port x).state = .awaitReply) :
    ∃ n, (s.port x).awaited = some n :=
  Option.ne_none_iff_exists'.mp fun hn => (h.legal x).awaited.mp hn hx

/-- An outcome is reported in the slot of an awaited record, and the slot is over (R13, R37). -/
theorem reportSlot (h : PortLaws full s) (hx : (s.port x).state = .awaitReply) (o : SlotOutcome) :
    PortLaws full (leaveAwait x (reportSlot x o s)) := by
  obtain ⟨n, ha⟩ := h.exists_awaited hx
  have e : Machine.reportSlot x o s = slotOutcome o n s := by simp [Machine.reportSlot, ha]
  rw [e]
  exact h.awaitOver hx ha (.slotOutcome h.numbered (fun hf _ hr => h.not_queued_of_names hf hr (.inr ha)) o)

/-- A well-formed arrival in the slot of an awaited record (R49). -/
theorem slotArrival (h : PortLaws full s) (hx : (s.port x).state = .awaitReply) (t : Telegram) :
    PortLaws full (leaveAwait x (slotArrival x t s)) := by
  unfold Machine.slotArrival
  split
  · split
    · rename_i hr
      obtain ⟨n, ha⟩ := h.exists_awaited hx
      rw [ha, Option.bind_some] at hr
      exact h.awaitOver hx ha (.missing h.numbered hr)
    · exact h.reportSlot hx _
  · exact (h.count _).reportSlot (by simpa using hx) _

/-- A reception that is discarded (R8, R9, R37). -/
theorem discarded (h : PortLaws full s) (x : Side) (c : Counter) : PortLaws full (leaveAwait x (discarded x c s)) := by
  unfold Machine.discarded
  dsimp only
  split
  · rename_i hx
    exact (h.count c).reportSlot (by simpa using hx) _
  · rename_i hx
    rw [leaveAwait_not_awaiting (by simpa using hx)]
    exact h.count c

/-- A well-formed arrival in the slot of an awaited record, or on a port that awaits nothing (R46). -/
theorem answered (h : PortLaws full s)
    (hx : (s.port x).state = .idle ∨ (s.port x).state = .defer ∨ (s.port x).state = .awaitReply) (t : Telegram) :
    PortLaws full (leaveAwait x (answerSlot x (forward x t s))) := by
  by_cases ha : (s.port x).state = .awaitReply
  · unfold forward
    split
    · dsimp only [answerSlot]
      exact ((h.count _).latch _).reportSlot ha _
    · have hl := h.learn x t.src
      have hla : ((Machine.learn x t.src s).port x).state = .awaitReply :=
        (Coarse.learn (Q := fun c => c = .awaitReply) (by simp [Coarse]) x x t.src s).mpr ha
      have e : Machine.dispose x t (Machine.learn x t.src s) = (Machine.slotArrival x t (Machine.learn x t.src s), none) :=
        if_pos hla
      rw [e]
      exact hl.slotArrival hla t
  · have hx' : (s.port x).state = .idle ∨ (s.port x).state = .defer := by simpa [ha] using hx
    have hd := Onward.forward h hx' t
    have hs := (hd.coarse (Q := fun c => c = .idle ∨ c = .defer) (by simp [Coarse])).mpr hx'
    unfold answerSlot
    split
    · rw [leaveAwait_not_awaiting (by simp [Machine.startReply])]
      exact hd.laws.startReply hs _
    · rw [leaveAwait_not_awaiting (by rcases hs with hs | hs <;> simp [hs])]
      exact hd.laws

theorem takeReception (h : PortLaws full s)
    (hx : (s.port x).state = .idle ∨ (s.port x).state = .defer ∨ (s.port x).state = .awaitReply) (bytes : List Byte) :
    PortLaws full (takeReception x bytes s) := by
  unfold Machine.takeReception
  split
  · exact h.discarded x _
  · exact h.discarded x _
  · exact (h.count _).answered (by simpa using hx) _

/-! ## The end of a step -/

theorem placeRelayRecord (h : PortLaws full s) (hd : full → 1 ≤ s.freeDescriptors) (role : Role) (destination : Nat)
    (side : Side) (payload : List Byte) : PortLaws full (placeRelayRecord role destination side payload s) :=
  of_lines (h.insertRecord (r := newRelayRecord role destination side payload s) hd rfl rfl rfl nofun) rfl

theorem createEvent (h : PortLaws full s) (hd : full → 1 ≤ s.freeDescriptors) : PortLaws full (createEvent s) := by
  unfold Machine.createEvent
  split
  · exact h
  · exact of_lines ((h.claimCells 1).placeRelayRecord hd _ _ _ _) rfl

theorem testSend (h : PortLaws full s) : PortLaws full (testSend s) := by
  rcases testSend_cases s with ⟨⟨-, -, hp⟩, e⟩ | ⟨-, e⟩ <;> rw [e]
  · simp only [State.eventPasses, Bool.and_eq_true, decide_eq_true_eq] at hp
    exact h.createEvent fun _ => hp.1
  · exact h.of_lines rfl

theorem withdrawClaim (h : PortLaws full s) : PortLaws full (withdrawClaim s) := h.of_lines rfl
theorem closeTests (h : PortLaws full s) : PortLaws full (closeTests s) := h.of_lines rfl

theorem finish (h : PortLaws full s) : PortLaws full (finish s) := by
  have h1 := h.arbitrateBoth.withdrawClaim
  unfold Machine.finish
  dsimp only
  split
  · exact h1
  · exact h1.testSend.arbitrateBoth.closeTests

/-! ## The steps of the lines -/

theorem activityStarts (h : PortLaws full s) (x : Side) : PortLaws full (activityStarts x s) := by
  have l := h.legal x
  unfold Machine.activityStarts
  dsimp only
  split
  · exact h.setPort { l with } rfl rfl
  · exact h.setPort { l with } rfl rfl
  · exact h.setPort (l.holdTimer _ _) rfl rfl
  · exact h.setPort { l with } rfl rfl
  · exact h
  · exact h

theorem receptionEnds (h : PortLaws full s) (x : Side) (bytes : List Byte) : PortLaws full (receptionEnds x bytes s) := by
  have h1 : PortLaws full (Machine.setPort x ((s.port x).lineQuiet s.now) s) :=
    h.setPort ((h.legal x).lineQuiet _) rfl rfl
  have hs : ((Machine.setPort x ((s.port x).lineQuiet s.now) s).port x).state = (s.port x).state := by
    rw [port_setPort_self]
    rfl
  unfold Machine.receptionEnds
  dsimp only
  split
  · exact h
  · exact h
  · exact h1
  all_goals
    rename_i hx
    split
    · exact h1
    · exact (h1.takeReception (by rw [hs]; simp [hx]) bytes).finish

theorem replyIsSent (h : PortLaws full s) (x : Side) : PortLaws full (replyIsSent x s) := by
  have hc : PortLaws full (countReply x s) := by
    unfold countReply
    split
    · exact h.count _
    · exact h
  have hp : (countReply x s).port x = s.port x := by
    unfold countReply
    split
    · exact port_countBy ..
    · rfl
  unfold Machine.replyIsSent
  split
  · rename_i hx
    have hx' : ((countReply x s).port x).state = .replying := hp ▸ hx
    exact (hc.setPort ((hc.legal x).afterReply hx' _) rfl rfl).finish
  · exact h

theorem quietWaitEnds (h : PortLaws full s) (x : Side) : PortLaws full (quietWaitEnds x s) := by
  unfold Machine.quietWaitEnds
  dsimp only
  split
  · rename_i hx _ _ _
    exact (h.reach _).setPort ((h.legal x).startSending hx _) rfl rfl
  · exact h

/-- A marked record ends when the port that lost the line drops it, in DEFER (R122, R32). -/
theorem withdrawMarked (h : PortLaws full s) (hx : (s.port x).state = .defer) : PortLaws full (withdrawMarked x s) := by
  unfold Machine.withdrawMarked
  split
  · rename_i n hc
    split
    · rename_i r hr
      split
      · refine h.dispose (h.legal x).dropChoice (fun _ => ?_) (n := n) (.inl hc) ?_
        · exact Port.names_none_of ((h.legal x).dropChoice_holds_none (.inl hx))
        · exact (record?_mem hr).2 ▸
            .endUndelivered (fun hf => (numbered_setPort ..).trans (h.numbered hf)) r _
      · exact h
    · exact h
  · exact h

/-- The head of a plain queue leaves when its port has not chosen it (R33, R31). -/
theorem releaseHead (h : PortLaws full s) (hx : full → (s.port x).choice ≠ some .plain) :
    PortLaws full (releaseHead x s) :=
  (h.setQueue fun hf hc => absurd hc (hx hf)).of_lines (releaseHead_lines x s)

theorem flushQueue (h : PortLaws full s) (hx : full → (s.port x).choice ≠ some .plain) :
    PortLaws full (flushQueue x s) :=
  (h.setQueue fun hf hc => absurd hc (hx hf)).of_lines (flushQueue_lines x s)

/-- A port that has chosen the head of its plain queue names no record. -/
theorem names_none_of_plain (h : PortLaws full s) (hc : (s.port x).choice = some .plain) (n : Nat) :
    ¬ (s.port x).Names n := by
  have ha : (s.port x).awaited = none := (h.legal x).awaited.mpr fun hs => by
    simp [(h.legal x).choice_none (by simp [hs]) (by simp [hs]) (by simp [hs])] at hc
  simp [Port.Names, hc, ha]

theorem lineIsLost (h : PortLaws full s) (x : Side) : PortLaws full (lineIsLost x s) := by
  unfold Machine.lineIsLost
  dsimp only
  split
  · rename_i hx
    have hc := h.count (.contentionLosses x)
    have hp : (Machine.count (.contentionLosses x) s).port x = s.port x := port_countBy ..
    refine finish ?_
    split
    · rename_i hl
      have hd := hc.setPort (p := (s.port x).deferAgain ((s.port x).lossCount + 1))
        ((h.legal x).deferAgain hx (Nat.le_of_lt_succ hl)) (by rw [hp]; rfl) (by rw [hp]; rfl)
      exact hd.withdrawMarked (by simp [Port.deferAgain])
    · have lg := (h.legal x).giveUp hx
      have hn : (s.port x).giveUp.choice ≠ some .plain ∧ ∀ n, ¬ (s.port x).giveUp.Names n :=
        Port.names_none_of ⟨rfl, lg.awaited.mpr (by simp [Port.giveUp])⟩
      unfold giveUpChoice
      split
      · rename_i hch
        refine PortLaws.count (releaseHead ?_ fun _ => ?_) _
        · exact hc.release_none lg (fun _ => hn) fun _ => hc.names_none_of_plain (hp ▸ hch)
        · rw [port_setPort_self]
          exact hn.1
      · rename_i n hch
        refine hc.dispose lg (fun _ => hn) (n := n) (.inl (hp ▸ hch)) (.outcomeNoAccess ?_ ?_)
        · exact fun hf => (numbered_setPort ..).trans (hc.numbered hf)
        · intro hf r hr
          exact hc.not_queued_of_names hf (by simpa [State.record?] using hr) (.inl (hp ▸ hch))
      · rename_i hch
        exact absurd hch (by simp [(h.legal x).choice, hx])
  · exact h

end PortLaws
end Sys2Proof.Machine
end

section
/-! SUPPORT. The laws of the ports through the timers, the due steps and every command; the statement on them. -/

namespace Sys2Proof.Machine

namespace PortLaws

variable {full : Prop} {s t : State} {x : Side}

/-! ## TRANSMIT_DONE -/

theorem plainIsSent (h : PortLaws full s) (hx : (s.port x).state = .sending) (hc : (s.port x).choice = some .plain) :
    PortLaws full (plainIsSent x s) := by
  have lp := (h.legal x).plainSent hx s.now
  have hn : ((s.port x).plainSent s.now).choice ≠ some .plain ∧ ∀ n, ¬ ((s.port x).plainSent s.now).Names n :=
    Port.names_none_of ⟨rfl, lp.awaited.mpr (by simp [Port.plainSent])⟩
  have h1 : PortLaws full (Machine.releaseHead x (Machine.setPort x ((s.port x).plainSent s.now) s)) :=
    (h.release_none lp (fun _ => hn) fun _ => h.names_none_of_plain hc).releaseHead fun _ => by
      rw [port_setPort_self]
      exact hn.1
  have hs : ((Machine.releaseHead x (Machine.setPort x ((s.port x).plainSent s.now) s)).port x).state = .idle := by
    rw [port_of_lines (releaseHead_lines ..), port_setQueue, port_setPort_self]
    rfl
  unfold Machine.plainIsSent
  dsimp only
  split
  · exact h1.segmentReset (.inl hs)
  · exact h1

/-- A record sent in full is AWAITING, and its port awaits its reply (R33). -/
theorem recordSent (h : PortLaws full s) (hx : (s.port x).state = .sending) {n : Nat}
    (hc : (s.port x).choice = some (.record n)) (now : Nat) :
    PortLaws full (updateRecord n (fun r => { r with state := .awaiting })
      (Machine.setPort x ((s.port x).recordSent n now) s)) := by
  have hside : (updateRecord n (fun r => { r with state := .awaiting })
      (Machine.setPort x ((s.port x).recordSent n now) s)).sides
      = (Machine.setPort x ((s.port x).recordSent n now) s).sides := rfl
  refine ⟨fun y => ?_, fun hf => ?_, fun hf => ?_, fun hf y hy => ?_⟩
  · rw [port_of_sides hside, port_setPort]
    split
    exacts [(h.legal x).recordSent hx n now, h.legal y]
  · exact numbered_updateRecord _ _ (fun _ hq => hq) ((numbered_setPort ..).trans (h.numbered hf))
  · obtain ⟨-, r, hr, rfl, rfl⟩ := (h.agrees hf).named x n (.inl hc)
    have hsend := ((h.agrees hf).sending r hr (by simp)).mpr hc
    rw [port_of_sides hside, updateRecord_records, setPort_records]
    refine (h.agrees hf).take (h.ascending hf) hr (fun m hm => (h.legal _).names_unique hm (.inl hc)) (fun y hy => ?_)
      (fun m => ?_) (fun m => ?_) ((h.agrees hf).first r hr (by simp [hsend]))
    · rw [port_setPort, if_neg hy]
    · simp [Port.recordSent, Port.lineQuiet, Port.noChoice]
    · simp [Port.recordSent, eq_comm]
  · rw [port_of_sides hside, port_setPort] at hy
    rw [queue_of_sides hside, queue_setPort]
    split at hy
    · simp [Port.recordSent, Port.lineQuiet, Port.noChoice] at hy
    · exact h.plain hf y hy

theorem transmissionEnds (h : PortLaws full s) (x : Side) : PortLaws full (transmissionEnds x s) := by
  have h1 := h.count (.txTelegrams x)
  have hp : (Machine.count (.txTelegrams x) s).port x = s.port x := port_countBy ..
  unfold Machine.transmissionEnds
  dsimp only
  split
  · rename_i hx
    split
    · rename_i hc
      exact (h1.plainIsSent (hp ▸ hx) (hp ▸ hc)).finish
    · rename_i n hc
      rw [← hp]
      exact h1.recordSent (hp ▸ hx) (hp ▸ hc) s.now
    · exact h
  · exact h

/-! ## The timers -/

theorem enterDown (h : PortLaws full s) (x : Side) : PortLaws full (enterDown x s) := by
  have lp := LegalPort.goDown (s.port x) s.now
  have hn : ((s.port x).goDown s.now).choice ≠ some .plain ∧ ∀ n, ¬ ((s.port x).goDown s.now).Names n :=
    Port.names_none_of ⟨rfl, rfl⟩
  have hv : ∀ v, PortLaws full v → v.sides = (Machine.setPort x ((s.port x).goDown s.now) s).sides →
      PortLaws full (Machine.latch (.lineDown x) (Machine.flushQueue x v)) := fun v h1 hs =>
    (h1.flushQueue fun _ => by rw [port_of_sides hs, port_setPort_self]; exact hn.1).latch _
  have hheld : ∀ n, (s.port x).heldRecord = some n → (s.port x).Names n := fun n hr => by
    unfold Port.heldRecord at hr
    split at hr
    · rename_i m hc
      exact .inl (Option.some.inj hr ▸ hc)
    · exact .inr hr
  have hnone : (s.port x).heldRecord = none → ∀ n, ¬ (s.port x).Names n := fun hr n hc => by
    unfold Port.heldRecord at hr
    rcases hc with hc | hc
    · simp [hc] at hr
    · split at hr
      · cases hr
      · rw [hc] at hr
        cases hr
  unfold Machine.enterDown
  dsimp only
  split
  · rename_i n hr
    have hd : Disposed full n (Machine.setPort x ((s.port x).goDown s.now) s)
        (abandonRecord n (Machine.setPort x ((s.port x).goDown s.now) s)) :=
      .abandonRecord fun hf => (numbered_setPort ..).trans (h.numbered hf)
    exact hv _ (h.dispose lp (fun _ => hn) (hheld n hr) hd) hd.sides
  · rename_i hr
    exact hv _ (h.release_none lp (fun _ => hn) fun _ => hnone hr) rfl

theorem lineGoesDown (h : PortLaws full s) (x : Side) : PortLaws full (lineGoesDown x s) := by
  unfold Machine.lineGoesDown
  dsimp only
  split
  · exact ((h.reach _).enterDown x).finish
  · exact h

theorem lineComesUp (h : PortLaws full s) (x : Side) : PortLaws full (lineComesUp x s) := by
  unfold Machine.lineComesUp
  dsimp only
  split
  · rename_i hx
    have h1 := h.reach ((s.port x).lineOkSince + Config.highDebounce)
    exact ((h1.setPort ((h1.legal x).comeUp hx.1 _) rfl rfl).latch _).finish
  · exact h

theorem replyTimerExpires (h : PortLaws full s) (x : Side) : PortLaws full (replyTimerExpires x s) := by
  unfold Machine.replyTimerExpires
  dsimp only
  split
  · rename_i hx _
    exact ((h.reach _).reportSlot hx .noReply).finish
  · exact h

theorem holdEnds (h : PortLaws full s) (n : Nat) : PortLaws full (holdEnds n s) := by
  unfold Machine.holdEnds
  split
  · exact h
  · rename_i r hr
    split
    · rename_i m hs
      have h1 := h.reach m
      refine finish (h1.dispose_unnamed (fun hf => ?_) (.requeue h1.numbered hr))
      obtain ⟨hm, rfl⟩ := record?_mem hr
      exact (h1.agrees hf).not_named (h1.ascending hf) hm (by simp) (by simp [hs]) (by simp [hs])
    all_goals exact h

theorem lifetimeEnds (h : PortLaws full s) (n : Nat) : PortLaws full (lifetimeEnds n s) := by
  unfold Machine.lifetimeEnds
  split
  · exact h
  · rename_i r hr
    exact ((h.reach r.deadline).withdraw .expired fun _ => (record?_mem hr).1).finish

theorem dupHoldEnds (h : PortLaws full s) (source : Nat) : PortLaws full (dupHoldEnds source s) := by
  unfold Machine.dupHoldEnds
  split
  exacts [h, h.of_lines rfl]

theorem leaseEnds (h : PortLaws full s) : PortLaws full (leaseEnds s) := by
  unfold Machine.leaseEnds
  split
  · exact h
  · exact finish (h.of_lines rfl)

theorem eventRepeatEnds (h : PortLaws full s) : PortLaws full (eventRepeatEnds s) := by
  unfold Machine.eventRepeatEnds
  split
  · exact finish (h.of_lines rfl)
  all_goals exact h

/-! ## The execution of a request -/

end PortLaws

/-- A withdrawal adds no record. -/
theorem length_withdraw_le (r : Record) (cause : Mark) (s : State) :
    (withdraw r cause s).records.length ≤ s.records.length := by
  rcases withdraw_cases r cause s with ⟨-, e⟩ | ⟨-, e⟩ | ⟨-, e⟩ <;> rw [e]
  · simp
  · unfold endUndelivered
    split
    · simp [convertToNotice_records]
    · rw [failRelay_records, removeRecord_records, dropRecordChoice_records]
      exact List.length_filter_le ..

theorem length_withdrawAll_le (cause : Mark) (rs : List Record) (s : State) :
    (withdrawAll cause rs s).records.length ≤ s.records.length :=
  withdrawAll_induction (P := fun v => v.records.length ≤ s.records.length) cause rs
    (fun r v hv => (length_withdraw_le r cause v).trans hv) le_rfl

theorem length_arbitrateBoth (s : State) : (arbitrateBoth s).records.length = s.records.length :=
  (length_records_arbitrate .b _).trans (length_records_arbitrate .a s)

/-- Commands other than COMMIT and PURGE touch neither ports nor plain queues nor records (R155, part 4). -/
theorem carryOut_lines {c : Command} (hc : c ≠ .commit) (hp : c ≠ .purge) (q : Request) (s : State) :
    (carryOut c q s).1.lines = s.lines := by
  cases c <;> simp only [carryOut]
  case commit => exact absurd rfl hc
  case purge => exact absurd rfl hp
  case identify => rfl
  case readEvents => rfl
  case readStations => unfold doReadStations; (repeat' split) <;> rfl
  case readConfig => unfold doReadConfig; (repeat' split) <;> rfl
  case readCounters => unfold doReadCounters clearCounters; (repeat' split) <;> rfl
  case readCustody => unfold doReadCustody; (repeat' split) <;> rfl
  case openSession => unfold doOpenSession; (repeat' split) <;> rfl
  case closeSession => unfold doCloseSession; (repeat' split) <;> rfl
  case stageStation => unfold doStageStation; (repeat' first | split | (dsimp only; split)) <;> rfl
  case unstageStation => unfold doUnstageStation; (repeat' first | split | (dsimp only; split)) <;> rfl
  case stageGroups => unfold doStageGroups; (repeat' split) <;> rfl
  case stageParams => unfold doStageParams; (repeat' split) <;> rfl
  case restart => unfold doRestart; (repeat' split) <;> rfl
  case setEventStation => unfold doSetEventStation; (repeat' split) <;> rfl
  case setEventMask => unfold doSetEventMask; (repeat' split) <;> rfl
  case clearEvents => unfold doClearEvents; (repeat' split) <;> rfl

/-- What part 4 of an execution leaves: the laws of the ports, and no more records than before. -/
structure Decides (full : Prop) (s v : State) : Prop where
  laws : PortLaws full v
  length : v.records.length ≤ s.records.length

namespace Decides

variable {full : Prop} {s v w : State}

theorem of_lines (h : PortLaws full s) (e : v.lines = s.lines) : Decides full s v :=
  ⟨h.of_lines e, by rw [records_of_lines e]⟩

theorem trans (h : Decides full s v) (k : Decides full v w) : Decides full s w := ⟨k.laws, k.length.trans h.length⟩

theorem doPurge (h : PortLaws full s) (q : Request) : Decides full s (doPurge q s).1 := by
  unfold Machine.doPurge
  split
  · exact of_lines h rfl
  · split
    · exact of_lines h rfl
    · split
      · exact of_lines h rfl
      · exact ⟨h.purgeRecords _ _, (length_arbitrateBoth _).trans_le (length_withdrawAll_le ..)⟩

theorem carryOutCommit (h : PortLaws full s) (keepOpen : Bool) (c : Session) :
    Decides full s (carryOutCommit keepOpen c s) := by
  have hi : ∀ staged v, (installConfig staged v).lines = v.lines := fun _ _ => by
    simp only [State.lines, State.sides, installConfig]
  have he : ∀ v, (expireDups v).lines = v.lines := fun _ => rfl
  have hl : ∀ e v, (latch e v).lines = v.lines := fun _ _ => rfl
  have h1 : Decides full s (latch .committed (expireDups (installConfig c.staged s))) :=
    of_lines h ((hl _ _).trans ((he _).trans (hi _ _)))
  have h2 : Decides full _ (routeCheck (fun _ => true) (latch .committed (expireDups (installConfig c.staged s)))) :=
    ⟨h1.laws.routeCheck _, (length_arbitrateBoth _).trans_le (length_withdrawAll_le ..)⟩
  have h3 : ∀ v : State, (settleSession keepOpen c v).lines = v.lines := fun v => by
    unfold settleSession
    split <;> rfl
  exact (h1.trans h2).trans (of_lines h2.laws (h3 _))

theorem doCommit (h : PortLaws full s) (q : Request) : Decides full s (doCommit q s).1 := by
  unfold Machine.doCommit
  split
  · exact of_lines h rfl
  · split
    · exact of_lines h rfl
    · split
      · exact of_lines h rfl
      · split
        · exact carryOutCommit h _ _
        · exact of_lines h rfl

theorem carryOut (h : PortLaws full s) (c : Command) (q : Request) : Decides full s (carryOut c q s).1 := by
  by_cases hc : c = .commit
  · exact hc ▸ doCommit h q
  · by_cases hp : c = .purge
    · exact hp ▸ doPurge h q
    · exact of_lines h (carryOut_lines hc hp q s)

theorem decideRequest (h : PortLaws full s) (q : Request) : Decides full s (decideRequest q s).1 := by
  have hr : (renewLease q s).lines = s.lines := by
    unfold renewLease
    split
    · split <;> rfl
    · rfl
  have h1 : Decides full s (renewLease q s) := of_lines h hr
  unfold Machine.decideRequest
  dsimp only
  split
  · exact h1.trans (carryOut h1.laws _ q)
  · exact h1

end Decides

/-- What is due passes its own test: a head or its claim finds a descriptor free, and so does the EVENT claim (R78, R153). -/
theorem due_passes {s : State} {d : Due} (h : s.due = some d) :
    ((d = .head ∨ d = .responseClaim) → s.headPasses = true) ∧ (d = .eventClaim → s.eventPasses = true) := by
  unfold State.due at h
  repeat' split at h
  all_goals cases h
  all_goals simp_all [State.responseClaimDue, State.eventClaimDue]

namespace PortLaws

variable {full : Prop} {s t : State}

theorem executeHead (h : PortLaws full s) (hp : s.headPasses = true) : PortLaws full (executeHead s) := by
  unfold Machine.executeHead
  unfold State.headPasses at hp
  split
  · exact h
  · rename_i q rest hq
    simp only [hq, State.canExecute, Bool.and_eq_true, decide_eq_true_eq] at hp
    have hd := Decides.decideRequest h q
    have hfree : 1 ≤ (decideRequest q s).1.freeDescriptors := le_trans hp.1.2 (Nat.sub_le_sub_left hd.length _)
    exact of_lines ((hd.laws.claimCells _).placeRelayRecord (fun _ => hfree) _ _ _ _) rfl

/-! ## Restarts and resets -/

/-- With no record held and no port that holds anything the laws stand. -/
theorem cleared (hl : ∀ x, LegalPort (t.port x)) (hn : ∀ x, (t.port x).choice = none ∧ (t.port x).awaited = none)
    (hr : t.records = []) : PortLaws full t where
  legal := hl
  numbered _ := by simp [State.numbered, hr, Machine.ascending]
  agrees _ := by
    rw [hr]
    exact ⟨by simp, by simp, by simp, by simp, fun x n hc => absurd hc ((Port.names_none_of (hn x)).2 n)⟩
  plain _ x hx := by simp [hn x] at hx

theorem restartQueues (h : PortLaws full s) : PortLaws full (restartQueues s) := by
  have hp : ∀ x, (Machine.restartQueues s).port x = (s.port x).restartQueues s.now := fun x => by cases x <;> rfl
  have hn : ∀ p : Port, LegalPort p → (p.restartQueues s.now).choice = none ∧ (p.restartQueues s.now).awaited = none :=
    fun p l => by
      unfold Port.restartQueues
      split
      · rename_i hd
        exact ⟨l.choice_none (by simp [hd]) (by simp [hd]) (by simp [hd]), l.awaited.mpr (by simp [hd])⟩
      · exact ⟨rfl, rfl⟩
  exact cleared (fun x => hp x ▸ (h.legal x).restartQueues _) (fun x => hp x ▸ hn _ (h.legal x)) rfl

theorem resetWith (straps : Straps) (s : State) : PortLaws full (resetWith straps s) := by
  have hp : ∀ x, (Machine.resetWith straps s).port x = Port.afterReset s.now (s.port x).lineOk := fun x => by
    cases x <;> rfl
  exact cleared (fun x => hp x ▸ .afterReset _ _) (fun x => hp x ▸ ⟨rfl, rfl⟩) rfl

/-! ## The due steps -/

theorem carryOutDue (h : PortLaws full s) {d : Due} (hd : s.due = some d) : PortLaws full (carryOutDue d s) := by
  obtain ⟨hh, he⟩ := due_passes hd
  unfold Machine.carryOutDue
  refine finish ?_
  cases d with
  | restart k =>
    cases k with
    | queues => exact h.restartQueues
    | full => exact resetWith _ _
  | responseClaim => exact h.executeHead (hh (.inr rfl))
  | eventClaim =>
    have := he rfl
    simp only [State.eventPasses, Bool.and_eq_true, decide_eq_true_eq] at this
    exact h.createEvent fun _ => this.1
  | head => exact h.executeHead (hh (.inl rfl))

theorem takeDue (h : PortLaws full s) (wanted : State → Due → Bool) (n : Nat) : PortLaws full (takeDue wanted n s) := by
  induction n generalizing s with
  | zero => exact h
  | succ n ih =>
    unfold Machine.takeDue
    split
    · exact h
    · rename_i d hd
      split
      · exact h.carryOutDue hd
      · exact ih (h.carryOutDue hd)

theorem settle (h : PortLaws full s) : PortLaws full (settle s) := h.takeDue _ _

theorem carryOutWanted (h : PortLaws full s) (wanted : State → Due → Bool) :
    PortLaws full (carryOutWanted wanted s) := h.takeDue _ _

/-! ## Every command -/

/-- What a command leaves, since every command answers next. -/
def After (P : State → Prop) (o : Host.Outcome State Fault Refusal) : Prop := ∀ t, o = .next t → P t

theorem after_next {P : State → Prop} (h : P t) : After P (.next t) := fun _ e => Host.Outcome.next.inj e ▸ h

theorem fromOutside (h : PortLaws full s) (dt : Nat) {effect : State → State}
    (he : ∀ v, PortLaws full v → PortLaws full (effect v)) : After (PortLaws full) (fromOutside dt effect s) := by
  have h1 := h.settle.elapse dt
  unfold Machine.fromOutside
  refine after_next ?_
  split
  exacts [h1, he _ h1]

theorem fromTimer (h : PortLaws full s) {effect : State → State} (he : ∀ v, PortLaws full v → PortLaws full (effect v)) :
    After (PortLaws full) (fromTimer effect s) := by
  unfold Machine.fromTimer
  refine after_next ?_
  split
  exacts [h.settle, he _ h.settle]

theorem lineOkChanged (h : PortLaws full s) (x : Side) (level : Bool) : PortLaws full (lineOkChanged x level s) := by
  unfold Machine.lineOkChanged
  split
  · exact h
  · exact h.setPort { h.legal x with } rfl rfl

theorem execResetNLow (h : PortLaws full s) (dt lowFor : Nat) : After (PortLaws full) (execResetNLow dt lowFor s) := by
  have h1 := h.settle.elapse dt
  have hold : ∀ v, PortLaws full v → PortLaws full (holdInReset v) := fun v hv =>
    of_lines ((hv.setPort (x := .a) (hv.legal .a).silenced rfl rfl).setPort (x := .b) (p := v.portB.silenced)
      (hv.legal .b).silenced rfl rfl) rfl
  unfold Machine.execResetNLow
  refine after_next ?_
  split
  exacts [h1, hold _ (h1.elapse lowFor)]

theorem exec (h : PortLaws full s) (i : Instr) : After (PortLaws full) (exec i s) := by
  cases i with
  | hardwareReset dt straps => exact after_next (resetWith _ _)
  | lineDown x => exact h.fromTimer fun _ hv => hv.lineGoesDown x
  | lineUp x => exact h.fromTimer fun _ hv => hv.lineComesUp x
  | lineActivityStart dt x => exact h.fromOutside dt fun _ hv => hv.activityStarts x
  | receptionEnd dt x bytes => exact h.fromOutside dt fun _ hv => hv.receptionEnds x bytes
  | replySent dt x => exact h.fromOutside dt fun _ hv => hv.replyIsSent x
  | quietWaitComplete x => exact h.fromOutside 0 fun _ hv => hv.quietWaitEnds x
  | contentionLoss dt x => exact h.fromOutside dt fun _ hv => hv.lineIsLost x
  | transmitDone dt x => exact h.fromOutside dt fun _ hv => hv.transmissionEnds x
  | replyTimerExpiry x => exact h.fromTimer fun _ hv => hv.replyTimerExpires x
  | holdEnd n => exact h.fromTimer fun _ hv => hv.holdEnds n
  | lifetimeExpiry n => exact h.fromTimer fun _ hv => hv.lifetimeEnds n
  | agingTick => exact h.fromTimer fun _ hv => hv.of_lines rfl
  | dupHoldExpiry source => exact h.fromTimer fun _ hv => hv.dupHoldEnds source
  | leaseExpiry => exact h.fromTimer fun _ hv => hv.leaseEnds
  | eventRepeatExpiry => exact h.fromTimer fun _ hv => hv.eventRepeatEnds
  | lineOkChange dt x level => exact after_next ((h.settle.elapse dt).lineOkChanged x level)
  | resetNLow dt lowFor => exact h.execResetNLow dt lowFor
  | restartFull straps => exact after_next ((h.of_lines rfl : PortLaws full { s with pins := straps }).carryOutWanted _)
  | eventClaimGranted | responseClaimGranted | malformedRequest | identify | readStations | readConfig | readCounters
  | readCustody | readEvents | openSession | closeSession | stageStation | unstageStation | stageGroups | stageParams
  | commit | purge | restart | restartQueues | setEventStation | setEventMask | clearEvents =>
    exact after_next (h.carryOutWanted _)

theorem step (h : PortLaws full s) (ht : step s = .next t) : PortLaws full t := by
  unfold Machine.step at ht
  split at ht
  · exact after_next h t ht
  · rename_i c rest _
    exact PortLaws.exec (s := { s with pending := rest }) (h.of_lines rfl) c t ht

end PortLaws

/-! ## The statement -/

/-- Settles O59: the laws of the ports are kept by every step, in part and in full. -/
theorem portsKept : Obligations.PortsKept := by
  refine ⟨fun s t hs ht => ?_, fun s t hp hn hm ht => ?_⟩
  · exact (portsLegal_iff t).mpr (((portsLegal_iff s).mp hs).step ht)
  · exact (lawful_iff t).mpr (((lawful_iff s).mp ⟨hp, hn, hm⟩).step ht)

end Sys2Proof.Machine
end

section
/-! SUPPORT. The steps of the lines and of their timers (chapter 2), once each, and the statements on them. -/

namespace Sys2Proof.Machine

/-! ## Steps from a ready state -/

/-- A step of a line whose effect ends a step ends as that does (log 8). -/
theorem fromOutside_endsAs {s u : State} {effect : State → State} {dt : Nat} (h : s.ready = true)
    (he : effect (elapse dt s) = finish u) (hn : u.numbered = true) :
    ∃ t, fromOutside dt effect s = .next t ∧ EndsAs u t :=
  ⟨finish u, by rw [fromOutside_ready h, he], ends_finish hn⟩

/-- A timer's step whose effect ends a step ends as that does (log 8). -/
theorem fromTimer_endsAs {s u : State} {effect : State → State} (h : s.ready = true) (he : effect s = finish u)
    (hn : u.numbered = true) : ∃ t, fromTimer effect s = .next t ∧ EndsAs u t :=
  ⟨finish u, by rw [fromTimer_ready h, he], ends_finish hn⟩

@[simp] theorem numbered_elapse (dt : Nat) (s : State) : (elapse dt s).numbered = s.numbered := rfl
@[simp] theorem queue_elapse (dt : Nat) (s : State) (x : Side) : (elapse dt s).queue x = s.queue x := by cases x <;> rfl
@[simp] theorem queue_countBy (c : Counter) (n : Nat) (s : State) (x : Side) :
    (countBy c n s).queue x = s.queue x := by cases x <;> rfl
@[simp] theorem record?_elapse (dt n : Nat) (s : State) : (elapse dt s).record? n = s.record? n := rfl
@[simp] theorem record?_setPort (x : Side) (p : Port) (s : State) (n : Nat) :
    (setPort x p s).record? n = s.record? n := by simp [State.record?]
@[simp] theorem setPort_setPort (x : Side) (p q : Port) (s : State) : setPort x p (setPort x q s) = setPort x p s := by
  cases x <;> rfl

/-! ## LINE_OK_CHANGE and LINE_ACTIVITY_START -/

/-- Settles O11: the debounce measure by the level seen before. -/
theorem lineOkChange : Obligations.LineOkChange := by
  intro dt x level s hdue
  have e : exec (.lineOkChange dt x level) s = .next (lineOkChanged x level (elapse dt s)) := by
    show Host.Outcome.next (lineOkChanged x level (elapse dt (settle s))) = _
    rw [settle_of_not_due hdue]
  rw [e, lineOkChanged]
  simp

theorem exec_lineActivityStart {s : State} (h : s.ready = true) (dt : Nat) (x : Side) :
    exec (.lineActivityStart dt x) s = .next (activityStarts x (elapse dt s)) :=
  fromOutside_ready h dt _

/-- Settles O14: one clause per port state, and in AWAIT_REPLY per moment of the reply timer. -/
theorem lineActivityStart : Obligations.LineActivityStart := by
  intro dt x s hready
  rw [exec_lineActivityStart hready]
  refine ⟨?_, fun since hs ht hnow => ?_, fun since hs ht hnow => ?_, fun hs ht => ?_, fun hs => ?_, ?_⟩
  · rintro (hs | hs) <;> simp [activityStarts, hs]
  · have hd : (elapse dt s).replyDeadline x = since + 120 * s.bitTime := by
      simp [State.replyDeadline, ht, Config.replyTimerBits, State.bitTime]
    simp [activityStarts, hs, ht, heldTimer, hd, hnow]
  · have hd : (elapse dt s).replyDeadline x = since + 120 * s.bitTime := by
      simp [State.replyDeadline, ht, Config.replyTimerBits, State.bitTime]
    simp [activityStarts, hs, ht, heldTimer, hd, Nat.not_le.mpr hnow]
  · simp [activityStarts, hs, ht, heldTimer]
  · simp [activityStarts, hs]
  · rintro (hs | hs) <;> simp [activityStarts, hs]

/-! ## QUIET_WAIT_COMPLETE -/

theorem bitTime_of_rate (s : State) : (s.rate = 0#2 → s.bitTime = 16) ∧ (s.rate = 1#2 → s.bitTime = 8)
    ∧ (s.rate = 2#2 → s.bitTime = 4) ∧ (s.rate = 3#2 → s.bitTime = 2) := by
  refine ⟨fun h => ?_, fun h => ?_, fun h => ?_, fun h => ?_⟩ <;> simp [State.bitTime, h]

/-- Settles O15: the transmission at the quiet wait's end, which telegram it is, and the bit times. -/
theorem quietWaitComplete : Obligations.QuietWaitComplete := by
  refine ⟨fun x s slots t0 hready hs hstaging hdefer ht => ?_, fun x s => ⟨fun n r hc hr => ?_, fun e rest hc hq => ?_,
    fun hc => ?_⟩, bitTime_of_rate⟩
  · have e : exec (.quietWaitComplete x) s = .next (quietWaitEnds x s) := fromOutside_ready hready 0 _
    rw [e, quietWaitEnds]
    simp [hs, hstaging, hdefer, ht, reach, State.quietEnd, Config.accessGapBits, Config.slotBits, Nat.mul_comm]
  · simp [State.chosenTelegram, hc, hr, Record.telegram]
  · simp [State.chosenTelegram, hc, hq]
  · simp [State.chosenTelegram, hc]

/-! ## TRANSMIT_DONE -/

/-- The head of a plain queue leaves with its cells (R33, R79). -/
theorem releaseHead_cons {x : Side} {s : State} {e : PlainEntry} {rest : List PlainEntry} (h : s.queue x = e :: rest) :
    releaseHead x s = { setQueue x rest s with free := s.free + e.cells, claimsDue := true } := by
  rw [releaseHead, h]
  cases x <;> rfl

/-- Settles O18: the record sent in full is AWAITING, and its port awaits its reply. -/
theorem transmitDoneOfARecord : Obligations.TransmitDoneOfARecord := by
  intro dt x s n hready hs hc
  have e : exec (.transmitDone dt x) s = .next (transmissionEnds x (elapse dt s)) := fromOutside_ready hready dt _
  rw [e, transmissionEnds]
  simp [hs, hc, Port.recordSent, Port.lineQuiet, Port.noChoice]

theorem numbered_releaseHead (x : Side) (s : State) : (releaseHead x s).numbered = s.numbered :=
  numbered_of_records ((records_of_lines (releaseHead_lines x s)).trans (setQueue_records ..))

theorem numbered_flushQueue (x : Side) (s : State) : (flushQueue x s).numbered = s.numbered :=
  numbered_of_records ((records_of_lines (flushQueue_lines x s)).trans (setQueue_records ..))

/-- A segment reset keeps the numbers of the records. -/
theorem numbered_segmentReset (x : Side) {s : State} (h : s.numbered = true) : (segmentReset x s).numbered = true := by
  have hport : (segmentResetPort x s).numbered = s.numbered := by
    unfold segmentResetPort
    refine (numbered_flushQueue x _).trans ?_
    split
    exacts [numbered_setPort .., rfl]
  have hrecords : (segmentResetRecords x (segmentResetPort x s)).numbered = true := numbered_endAll _ _ (hport.trans h)
  refine (arbitrated_both ((numbered_of_records (records_of_lines ?_)).trans hrecords)).numbered
  exact (segmentResetEvents_lines ..).trans ((segmentResetSession_lines ..).trans (segmentResetRequests_lines ..))

/-- Settles O19: the entry leaves and the port is IDLE, and an SRESET then resets the segment. -/
theorem transmitDoneOfAPlainTelegram : Obligations.TransmitDoneOfAPlainTelegram := by
  refine ⟨fun dt x s e rest hready hn hs hc hq => ?_, fun x s e rest hq => releaseHead_cons hq⟩
  intro s1
  have hq1 : s1.queue x = e :: rest := by simpa [s1] using hq
  have hn1 : s1.numbered = true := by simpa [s1] using hn
  have hp : setPort x (((count (.txTelegrams x) (elapse dt s)).port x).plainSent (s.now + dt))
      (count (.txTelegrams x) (elapse dt s)) = s1 := by
    simp [s1, Port.plainSent, Port.lineQuiet, Port.noChoice]
  have hends : transmissionEnds x (elapse dt s) = finish (plainIsSent x (count (.txTelegrams x) (elapse dt s))) := by
    simp [transmissionEnds, hs, hc]
  have hsent : plainIsSent x (count (.txTelegrams x) (elapse dt s))
      = if e.telegram.kind = .sreset then segmentReset x (releaseHead x s1) else releaseHead x s1 := by
    rw [← hp]
    simp [plainIsSent, hq]
  have hnr : (releaseHead x s1).numbered = true := (numbered_releaseHead x s1).trans hn1
  refine ⟨fun hk => ?_, fun hk => ?_⟩
  · have hfree : s1.free = s.free := by simp [s1]
    rw [hsent, if_neg hk] at hends
    rw [← hfree, ← releaseHead_cons hq1]
    exact fromOutside_endsAs hready hends hnr
  · rw [hsent, if_pos hk] at hends
    exact fromOutside_endsAs hready hends (numbered_segmentReset x hnr)

/-! ## CONTENTION_LOSS -/

/-- The deferral of a loss count doubles up to 32 slots (R29). -/
theorem deferralOf_eq (n : Nat) : deferralOf n = if n ≤ 4 then 2 ^ n else 32 := by
  match n with
  | 0 | 1 | 2 | 3 | 4 => rfl
  | k + 5 => rw [deferralOf, if_neg (by omega)] <;> omega

theorem exec_contentionLoss {s : State} (h : s.ready = true) (dt : Nat) (x : Side) :
    exec (.contentionLoss dt x) s = .next (lineIsLost x (elapse dt s)) :=
  fromOutside_ready h dt _

/-- With no marked record chosen nothing is withdrawn after a loss. -/
theorem withdrawMarked_unmarked {x : Side} {s : State}
    (h : ∀ n r, (s.port x).choice = some (.record n) → s.record? n = some r → r.mark = none) :
    withdrawMarked x s = s := by
  unfold withdrawMarked
  split
  · rename_i n hc
    split
    · rename_i r hr
      rw [h n r hc hr]
    · rfl
  · rfl

/-- A marked record that is chosen ends after a loss below the 16th, and its port is IDLE (R122, R32). -/
theorem withdrawMarked_marked {x : Side} {s : State} {n : Nat} {r : Record} {m : Mark}
    (hs : (s.port x).state = .defer) (hc : (s.port x).choice = some (.record n)) (hr : s.record? n = some r)
    (hm : r.mark = some m) :
    withdrawMarked x s = endUndelivered r m.reason (setPort x { (s.port x).noChoice with state := .idle } s) := by
  simp [withdrawMarked, hc, hr, hm, Port.dropChoice, hs]

/-- A loss below the 16th (R30). -/
theorem lineIsLost_again {x : Side} {s : State} (hs : (s.port x).state = .sending) (hl : (s.port x).lossCount + 1 < 16) :
    lineIsLost x s = finish (withdrawMarked x
      (setPort x ((s.port x).deferAgain ((s.port x).lossCount + 1)) (count (.contentionLosses x) s))) := by
  have hl' : (s.port x).lossCount + 1 < Config.lossLimit := hl
  simp only [lineIsLost, if_pos hs, if_pos hl']

/-- The 16th loss (R31). -/
theorem lineIsLost_last {x : Side} {s : State} (hs : (s.port x).state = .sending) (hl : 15 ≤ (s.port x).lossCount) :
    lineIsLost x s = finish (giveUpChoice x (s.port x).choice
      (setPort x (s.port x).giveUp (count (.contentionLosses x) s))) := by
  have hl' : ¬ (s.port x).lossCount + 1 < Config.lossLimit := Nat.not_lt.mpr (Nat.succ_le_succ hl)
  simp only [lineIsLost, if_pos hs, if_neg hl']

/-- Settles O16: a loss below the 16th by the mark of the chosen record, and a loss out of place. -/
theorem contentionLoss : Obligations.ContentionLoss := by
  intro dt x s hready hn
  refine ⟨fun hs hl hmark => ?_, fun n r m hs hl hc hr hm => ?_, fun hs => ?_⟩
  · refine fromOutside_endsAs hready ?_ (by simpa using hn)
    rw [lineIsLost_again (by simpa using hs) (by simpa using hl), withdrawMarked_unmarked]
    · simp [Port.deferAgain, Port.loseLine, deferralOf_eq]
    · simpa [Port.deferAgain, Port.loseLine] using hmark
  · refine fromOutside_endsAs hready ?_ (numbered_endUndelivered _ _ (by simpa using hn))
    rw [lineIsLost_again (by simpa using hs) (by simpa using hl), withdrawMarked_marked (n := n) (r := r) (m := m)]
    · simp [Port.deferAgain, Port.loseLine, Port.noChoice]
    · simp [Port.deferAgain]
    · simpa [Port.deferAgain, Port.loseLine] using hc
    · simpa using hr
    · exact hm
  · rw [exec_contentionLoss hready, lineIsLost]
    simp [hs]

/-- Settles O17: the telegram given up is the plain head, or a record whose attempt ends as NO_ACCESS. -/
theorem contentionGiveUp : Obligations.ContentionGiveUp := by
  intro dt x s hready hn hs hl s1
  have hn1 : s1.numbered = true := by simpa [s1] using hn
  have hlost : lineIsLost x (elapse dt s) = finish (giveUpChoice x (s.port x).choice s1) := by
    rw [lineIsLost_last (by simpa using hs) (by simpa using hl)]
    simp [s1, Port.giveUp, Port.loseLine, Port.noChoice]
  refine ⟨fun e rest hc hq => ?_, fun n r hc hr => ?_⟩
  · have hq1 : s1.queue x = e :: rest := by simpa [s1] using hq
    have hfree : s1.free = s.free := by simp [s1]
    rw [hc] at hlost
    rw [← hfree, ← releaseHead_cons hq1]
    exact fromOutside_endsAs hready hlost ((numbered_releaseHead x s1).trans hn1)
  · have hr1 : s1.record? n = some r := by simpa [s1] using hr
    have hgive : giveUpChoice x (s.port x).choice s1 = outcomeFailed r .noAccess s1 := by
      simp [giveUpChoice, hc, outcomeNoAccess, hr1]
    exact fromOutside_endsAs hready (hlost.trans (by rw [hgive])) (numbered_outcomeFailed r .noAccess hn1)

/-! ## REPLY_SENT and REPLY_TIMER_EXPIRY -/

/-- A reply sent in full is counted by its kind (R34). -/
theorem countReply_of_reply {x : Side} {s : State} {r : Reply} (h : (s.port x).reply = some r) :
    (r.kind = .busy → countReply x s = count (.busyGiven x) s)
      ∧ (∀ reason, r.kind = .final (.reject reason) → countReply x s = count (.rejectGiven x) s)
      ∧ (r.kind = .final .ack → countReply x s = s) := by
  refine ⟨fun hk => ?_, fun reason hk => ?_, fun hk => ?_⟩ <;> simp [countReply, h, hk, replyCounter]

/-- Settles O20: one clause per kind of reply. -/
theorem replySent : Obligations.ReplySent := by
  intro dt x s r hready hn hs hr p
  have hends : exec (.replySent dt x) s = .next (finish (setPort x p (countReply x (elapse dt s)))) := by
    have hport : (countReply x (elapse dt s)).port x = s.port x := by
      unfold countReply
      split <;> simp
    have hnow : (countReply x (elapse dt s)).now = s.now + dt := by
      unfold countReply
      split <;> simp
    have e : exec (.replySent dt x) s = .next (replyIsSent x (elapse dt s)) := fromOutside_ready hready dt _
    rw [e, replyIsSent, if_pos (by simpa using hs)]
    simp only [hport, hnow]
    rfl
  obtain ⟨hbusy, hreject, hack⟩ := countReply_of_reply (x := x) (s := elapse dt s) (by simpa using hr)
  refine ⟨_, hends, fun hk => ?_, fun reason hk => ?_, fun hk => ?_⟩
  · rw [hbusy hk]
    exact ends_finish (by simpa using hn)
  · rw [hreject reason hk]
    exact ends_finish (by simpa using hn)
  · rw [hack hk]
    exact ends_finish (by simpa using hn)

/-- Settles O21: the attempt ends with no reply when the timer's moment arrives. -/
theorem replyTimerExpiry : Obligations.ReplyTimerExpiry := by
  intro x s since n r hready hn hs ht ha hr
  have hfailed : (outcomeFailed r .noReply (reach (since + 120 * s.bitTime) s)).numbered = true :=
    numbered_outcomeFailed r .noReply hn
  refine fromTimer_endsAs (u := awaitOver x (outcomeFailed r .noReply (reach (since + 120 * s.bitTime) s))) hready ?_
    ((numbered_setPort ..).trans hfailed)
  have hport : (reach (since + 120 * s.bitTime) s).port x = s.port x := port_congr rfl rfl x
  have hslot := reportSlot_noReply (x := x) (s := reach (since + 120 * s.bitTime) s) (hport ▸ ha) hr
  simp only [replyTimerExpires, hs, ht, Config.replyTimerBits]
  rw [hslot, leaveAwait_awaiting (by rw [port_outcomeFailed, hport, hs])]

/-! ## LINE_UP and LINE_DOWN -/

/-- Settles O13: the port enters IDLE with its measure at the moment, and LINE_UP is latched. -/
theorem lineUp : Obligations.LineUp := by
  intro x s hready hn hs hok now
  have hport : ∀ m, (reach m s).port x = s.port x := fun m => port_congr rfl rfl x
  refine fromTimer_endsAs hready ?_ ((numbered_setPort ..).trans hn)
  simp only [lineComesUp, hs, hok, enterUp, hport]
  rfl

/-- A flush of an empty plain queue changes nothing (R84). -/
theorem flushQueue_nil {x : Side} {s : State} (h : s.queue x = []) : flushQueue x s = s := by simp [flushQueue, h]

/-- A flush removes and counts every entry, and frees its cells (R84). -/
theorem flushQueue_ne_nil {x : Side} {s : State} (h : s.queue x ≠ []) :
    flushQueue x s = countBy (.plainDropped x) (s.queue x).length
      { setQueue x [] s with free := s.free + sumCells PlainEntry.cells (s.queue x), claimsDue := true } := by
  unfold flushQueue
  cases hq : s.queue x with
  | nil => exact absurd hq h
  | cons e rest => cases x <;> rfl

/-- Counting nothing changes nothing. -/
theorem countBy_zero (c : Counter) (s : State) : countBy c 0 s = s := by
  simp [countBy, saturatingAdd_zero]

/-- Setting a plain queue to what it is changes nothing. -/
theorem setQueue_same {x : Side} {s : State} {q : List PlainEntry} (h : s.queue x = q) : setQueue x q s = s := by
  subst h
  cases x <;> rfl

/-- A flush, whether the plain queue is empty or not (R84). -/
theorem flushQueue_eq (x : Side) (s : State) :
    flushQueue x s = countBy (.plainDropped x) (s.queue x).length
      { setQueue x [] s with
        free := s.free + sumCells PlainEntry.cells (s.queue x)
        claimsDue := s.claimsDue || !(s.queue x).isEmpty } := by
  by_cases h : s.queue x = []
  · rw [flushQueue_nil h, setQueue_same h, h]
    simp [countBy_zero, sumCells]
  · have e : (s.claimsDue || !(s.queue x).isEmpty) = true := by simp [h]
    rw [flushQueue_ne_nil h, e]

/-- The record a port has chosen, or else the one it awaits (R129). -/
theorem heldRecord_spec (p : Port) : (∀ n, p.choice = some (.record n) → p.heldRecord = some n)
    ∧ ((∀ n, p.choice ≠ some (.record n)) → p.heldRecord = p.awaited) := by
  refine ⟨fun n hc => by simp [Port.heldRecord, hc], fun hc => ?_⟩
  unfold Port.heldRecord
  split
  · rename_i n h
    exact absurd h (hc n)
  · rfl

/-- An unmarked record that its port abandons is QUEUED again, and every other record stays (R129). -/
theorem abandonRecord_unmarked {n : Nat} {s : State} (h : ∀ r, s.record? n = some r → r.mark = none) :
    abandonRecord n s = updateRecord n (fun r => { r with state := .queued }) s := by
  unfold abandonRecord
  cases hr : s.record? n with
  | none =>
    have e : s.records.map (fun r => if r.number = n then { r with state := .queued } else r) = s.records :=
      (List.map_congr_left fun r hm => if_neg (record?_none hr r hm)).trans (List.map_id _)
    simp only [updateRecord, e]
  | some r => simp only [h r hr]

/-- What becomes of the record that a port going DOWN held, if it held one (R129). -/
def abandonHeld (held : Option Nat) (s : State) : State := held.elim s fun n => abandonRecord n s

theorem enterDown_eq (x : Side) (s : State) :
    enterDown x s = latch (.lineDown x) (flushQueue x
      (abandonHeld (s.port x).heldRecord (setPort x ((s.port x).goDown s.now) s))) := by
  unfold enterDown
  dsimp only
  cases (s.port x).heldRecord <;> rfl

theorem abandonHeld_unmarked {held : Option Nat} {s : State}
    (h : ∀ n r, held = some n → s.record? n = some r → r.mark = none) :
    abandonHeld held s
      = { s with records := s.records.map fun r => if held = some r.number then { r with state := .queued } else r } := by
  cases held with
  | none => simp [abandonHeld]
  | some n =>
    rw [abandonHeld, Option.elim_some, abandonRecord_unmarked fun r => h n r rfl, updateRecord]
    simp only [Option.some.injEq, eq_comm]

/-- Settles O12: the record of a port that goes DOWN by its mark, and the plain queue. -/
theorem lineDown : Obligations.LineDown := by
  refine ⟨fun x s hready hn hs hok => ?_, heldRecord_spec, fun x s => ⟨flushQueue_nil, flushQueue_ne_nil⟩⟩
  intro p now s1
  have hn1 : s1.numbered = true := (numbered_setPort ..).trans hn
  have hrec : ∀ n, s1.record? n = s.record? n := fun n => record?_setPort ..
  have hdown : lineGoesDown x s = finish (latch (.lineDown x) (flushQueue x (abandonHeld p.heldRecord s1))) := by
    have hp : (reach (p.lineOkSince + Config.lowDebounce) s).port x = p := port_congr rfl rfl x
    rw [lineGoesDown, if_pos ⟨hs, hok⟩, enterDown_eq, hp]
    rfl
  refine ⟨fun hmark => ?_, fun n r m hheld hr hm => ?_⟩
  · have hq : ∀ rs, ({ s1 with records := rs } : State).queue x = s.queue x := fun rs =>
      (queue_congr (s := s1) rfl rfl x).trans (queue_setPort ..)
    rw [abandonHeld_unmarked fun n r hh hr => hmark n r hh (hrec n ▸ hr), flushQueue_eq, hq] at hdown
    refine fromTimer_endsAs hready (hdown.trans ?_) ?_
    · cases x <;> rfl
    · have hnum : ∀ r : Record, (if p.heldRecord = some r.number then { r with state := .queued } else r).number
          = r.number := fun r => by split <;> rfl
      obtain ⟨hasc, h64⟩ := (numbered_iff s).mp hn
      refine (numbered_iff _).mpr ⟨ascending_map _ hnum hasc, fun r hr => ?_⟩
      obtain ⟨q, hq, rfl⟩ := List.mem_map.mp hr
      exact (hnum q).symm ▸ h64 q hq
  · have hend : abandonHeld p.heldRecord s1 = endUndelivered r m.reason s1 := by
      simp [abandonHeld, hheld, abandonRecord, (hrec n).trans hr, hm]
    rw [hend] at hdown
    exact fromTimer_endsAs hready hdown ((numbered_flushQueue x _).trans (numbered_endUndelivered r m.reason hn1))

end Sys2Proof.Machine
end

section
/-! SUPPORT. The transmit arbiter (R26, R27, R111, R112), and what leaves the last class served. -/

namespace Sys2Proof.Machine

/-- Eligibility in its parts (R111). -/
theorem eligible_iff (s : State) (r : Record) : s.eligible r = true ↔ r.state = .queued
    ∧ ¬ ∃ q ∈ s.records, q.outSide = r.outSide ∧ q.destination = r.destination ∧ q.stamp < r.stamp := by
  simp [State.eligible, imp_iff_not_or, or_assoc]

/-- The candidate of a side is its oldest eligible record (R112). -/
theorem candidate_oldest {s : State} {x : Side} {r : Record} (h : s.candidate x = some r) :
    r.outSide = x ∧ r ∈ s.records ∧ s.eligible r = true
      ∧ ∀ q ∈ s.records, q.outSide = x → s.eligible q = true → r.stamp ≤ q.stamp := by
  obtain ⟨hm, hx, hel⟩ := candidate_spec h
  exact ⟨hx, hm, hel, fun q hq hqx hqe => oldest_le h (List.mem_filter.mpr ⟨hq, by simp [hqx, hqe]⟩)⟩

/-- The last class served is kept when a choice is dropped, when the port goes DOWN, at the 16th loss and at RESTART
QUEUES. -/
theorem lastClass_kept (p : Port) (now : Nat) : p.dropChoice.lastClass = p.lastClass
    ∧ (p.goDown now).lastClass = p.lastClass ∧ p.giveUp.lastClass = p.lastClass
    ∧ (p.restartQueues now).lastClass = p.lastClass := by
  refine ⟨?_, rfl, rfl, ?_⟩
  · unfold Port.dropChoice
    split <;> rfl
  · unfold Port.restartQueues
    split <;> rfl

theorem lastClass_segmentResetPort (x y : Side) (s : State) :
    ((segmentResetPort x s).port y).lastClass = (s.port y).lastClass := by
  unfold segmentResetPort
  dsimp only
  have hflush : ∀ v, (latch (.segmentReset x) (flushQueue x v)).port y = v.port y := fun v =>
    (congrFun (port_of_lines (flushQueue_lines x v)) y).trans (port_setQueue ..)
  rw [hflush]
  split
  · rw [port_setPort]
    split
    · rename_i e
      rw [e]
      rfl
    · rfl
  · rfl

theorem lastClass_resetWith (straps : Straps) (x : Side) (s : State) :
    ((resetWith straps s).port x).lastClass = .plain := by cases x <;> rfl

/-- Settles O22: the arbiter by what the port takes, and what becomes of the last class served. -/
theorem arbiterAlternates : Obligations.ArbiterAlternates := by
  refine ⟨fun x s hn => ?_, lastClass_kept, lastClass_segmentResetPort, lastClass_resetWith⟩
  obtain ⟨htr, htp, htn⟩ := arbitrate_takes x s
  obtain ⟨hpr, hpp, -⟩ := port_arbitrate x s
  obtain ⟨hk, hnow, hfree, hseq, hlat, hrec, htimer, hrd, hresp, hev, hcd, hhd⟩ := arbitrate_keeps x s
  refine ⟨eligible_iff s, fun r => candidate_oldest, candidate_none.mp, arbitrate_not_idle, fun hc hq => ?_,
    fun r hi hc hq => ?_, fun hi hq hc => ?_, hk, arbitrate_other x s, length_records_arbitrate x s, hnow, hfree, hseq,
    hlat, hrec, htimer, hev, hresp, hrd, hcd, hhd⟩
  · exact htn (fun r h => by simp [h.2.1] at hc) fun h => h.2.1 hq
  · have ht : s.takesRecord x r := ⟨hi, hc, hq⟩
    have hr := record?_of_mem hn (candidate_spec hc).1
    refine ⟨hpr r ht, ?_, fun n hne => ?_⟩ <;> rw [htr r ht, record?_chooseRecord]
    · rw [if_pos rfl, hr, Option.map_some]
    · rw [if_neg hne]
  · have ht : s.takesPlain x := ⟨hi, hq, hc⟩
    exact ⟨hpp ht, by rw [htp ht, choosePlain, setPort_records]⟩

end Sys2Proof.Machine
end

section
/-! SUPPORT. What the learning stage leaves as it was (R48), and what becomes of a well-formed arrival by the decision that
disposes of it (R46), once each. -/

namespace Sys2Proof.Machine

@[simp] theorem port_latch (e : Event) (x : Side) (s : State) : (latch e s).port x = s.port x := by cases x <;> rfl
@[simp] theorem numbered_latch (e : Event) (s : State) : (latch e s).numbered = s.numbered := rfl
@[simp] theorem record?_latch (e : Event) (s : State) (n : Nat) : (latch e s).record? n = s.record? n := rfl

/-! ## What the learning stage keeps -/

/-- Withdrawing a record keeps the configuration (R121). -/
theorem withdraw_keepsConfig (r : Record) (cause : Mark) (s : State) : KeepsConfig s (withdraw r cause s) := by
  rcases withdraw_cases r cause s with ⟨-, e⟩ | ⟨-, e⟩ | ⟨-, e⟩ <;> rw [e]
  · exact ⟨rfl, rfl, rfl, rfl, rfl, rfl⟩
  · exact ⟨rfl, rfl, rfl, rfl, rfl, rfl⟩
  · have hend := (endUndelivered_keeps r cause.reason (dropRecordChoice r s)).config
    rcases dropRecordChoice_cases r s with e | ⟨-, e⟩ <;> rw [e] at hend ⊢
    · exact hend
    · simpa [KeepsConfig] using hend

theorem KeepsConfig.trans {s t u : State} (h : KeepsConfig s t) (k : KeepsConfig t u) : KeepsConfig s u := by
  unfold KeepsConfig at *
  simp_all

/-- The arbiters keep the configuration (R26). -/
theorem arbitrateBoth_keepsConfig (s : State) : KeepsConfig s (arbitrateBoth s) :=
  (arbitrate_keeps .a s).1.1.trans (arbitrate_keeps .b _).1.1

theorem routeCheck_keepsConfig (chosen : Record → Bool) (s : State) : KeepsConfig s (routeCheck chosen s) :=
  (withdrawAll_induction (P := KeepsConfig s) .unrouted _ (fun r v hv => hv.trans (withdraw_keepsConfig r .unrouted v))
    ⟨rfl, rfl, rfl, rfl, rfl, rfl⟩).trans (arbitrateBoth_keepsConfig _)

theorem numbered_routeCheck (chosen : Record → Bool) {s : State} (h : s.numbered = true) :
    (routeCheck chosen s).numbered = true :=
  (arbitrated_both (withdrawAll_induction (P := fun v => v.numbered = true) .unrouted _
    (fun r _ hv => numbered_withdraw r .unrouted hv) h)).numbered

/-- A port that awaits a reply has nothing to drop and takes nothing (R26, R32). -/
theorem port_routeCheck_awaiting (chosen : Record → Bool) {x : Side} {s : State}
    (h : (s.port x).state = .awaitReply) : (routeCheck chosen s).port x = s.port x := by
  have hw : ∀ (r : Record) (v : State), v.port x = s.port x → (withdraw r .unrouted v).port x = s.port x := by
    intro r v hv
    rcases withdraw_cases r .unrouted v with ⟨-, e⟩ | ⟨-, e⟩ | ⟨-, e⟩ <;> rw [e]
    · exact hv
    · exact (port_congr (updateRecord_portA ..) (updateRecord_portB ..) x).trans hv
    · rw [port_of_sides (endUndelivered_keeps r _ _).sides]
      rcases dropRecordChoice_cases r v with e | ⟨-, e⟩ <;> rw [e]
      · exact hv
      · rw [port_setPort]
        split
        · rename_i hx
          rw [← hx, hv, Port.dropChoice, h]
        · exact hv
  have hall := withdrawAll_induction (P := fun v => v.port x = s.port x) .unrouted
    (s.records.filter fun r => r.origin == .forward && chosen r && s.unrouted r) hw rfl
  have harb : ∀ (y : Side) (v : State), v.port x = s.port x → (arbitrate y v).port x = s.port x := by
    intro y v hv
    by_cases hxy : x = y
    · subst hxy
      rw [arbitrate_not_idle (by simp [hv, h]), hv]
    · have : x = y.other := by revert hxy; cases x <;> cases y <;> simp [Side.other]
      rw [this, arbitrate_other, ← this, hv]
  exact harb .b _ (harb .a _ hall)

/-- All that the learning stage can do (R48, R63 to R67). -/
theorem learn_cases (x : Side) (src : Nat) (s : State) :
    learn x src s = s ∨ learn x src s = latch .learnFull (count .learnFull s)
      ∨ (∃ e, learn x src s = putStation e s)
      ∨ ∃ e chosen, learn x src s = routeCheck chosen (latch .stationMoved (putStation e s)) := by
  unfold learn learnNew learnHeard
  split
  · split
    · split
      · exact .inr (.inr (.inl ⟨_, rfl⟩))
      · exact .inr (.inl rfl)
    · split
      · exact .inl rfl
      · dsimp only
        split
        · exact .inr (.inr (.inl ⟨_, rfl⟩))
        · exact .inr (.inr (.inr ⟨_, _, rfl⟩))
  · exact .inl rfl

theorem learn_keepsConfig (x : Side) (src : Nat) (s : State) : KeepsConfig s (learn x src s) := by
  rcases learn_cases x src s with e | e | ⟨_, e⟩ | ⟨_, chosen, e⟩ <;> rw [e]
  · exact ⟨rfl, rfl, rfl, rfl, rfl, rfl⟩
  · exact ⟨rfl, rfl, rfl, rfl, rfl, rfl⟩
  · exact ⟨rfl, rfl, rfl, rfl, rfl, rfl⟩
  · exact KeepsConfig.trans ⟨rfl, rfl, rfl, rfl, rfl, rfl⟩ (routeCheck_keepsConfig chosen _)

theorem numbered_learn (x : Side) (src : Nat) {s : State} (h : s.numbered = true) :
    (learn x src s).numbered = true := by
  rcases learn_cases x src s with e | e | ⟨_, e⟩ | ⟨_, chosen, e⟩ <;> rw [e]
  · exact h
  · exact h
  · exact h
  · exact numbered_routeCheck chosen h

/-- Learning leaves a port that awaits a reply as it is (R48, R68). -/
theorem port_learn_awaiting (y : Side) (src : Nat) {x : Side} {s : State} (h : (s.port x).state = .awaitReply) :
    (learn y src s).port x = s.port x := by
  rcases learn_cases y src s with e | e | ⟨g, e⟩ | ⟨g, chosen, e⟩ <;> rw [e]
  · exact port_congr rfl rfl x
  · exact port_congr rfl rfl x
  · have hp : (latch .stationMoved (putStation g s)).port x = s.port x := port_congr rfl rfl x
    exact (port_routeCheck_awaiting chosen (hp ▸ h)).trans hp

/-- Awaiting a reply is a test that does not tell IDLE from DEFER. -/
theorem coarse_awaitReply : Coarse (· = PortState.awaitReply) := by simp [Coarse]

/-! ## The state after learning -/

theorem learned_keepsConfig (s : State) (x : Side) (dt src : Nat) : KeepsConfig s (s.learned x dt src) := by
  refine KeepsConfig.trans ?_ (learn_keepsConfig x src _)
  simp [KeepsConfig, State.quiet]

theorem numbered_learned {s : State} (h : s.numbered = true) (x : Side) (dt src : Nat) :
    (s.learned x dt src).numbered = true := numbered_learn x src (by simpa using h)

theorem learned_awaits_iff (s : State) (x : Side) (dt src : Nat) :
    ((s.learned x dt src).port x).state = .awaitReply ↔ (s.port x).state = .awaitReply :=
  (coarse_awaitReply.learn x x src _).trans (by simp)

/-- A port that receives ordinary arrivals awaits no reply. -/
theorem State.receives.not_awaiting {s : State} {x : Side} (h : s.receives x) : (s.port x).state ≠ .awaitReply := by
  rcases h.1 with h | h <;> simp [h]

/-! ## The forwarding decision by its outcome -/

/-- A well-formed reception is counted and decided, and the await of a port that awaits is over (R10, R46, R37). -/
theorem takeReception_wellFormed {bytes : List Byte} {t : Telegram} (h : checkReception bytes = .wellFormed t) (x : Side)
    (s : State) : takeReception x bytes s = leaveAwait x (answerSlot x (forward x t (count (.rxGood x) s))) := by
  rw [takeReception, h]

/-- A telegram that the source check lets pass is learned from and disposed of (R47, R48). -/
theorem forward_of_no_conflict {s : State} {x : Side} {t : Telegram} {dt : Nat}
    (h : (s.quiet x dt).sourceConflict x t.src = false) :
    forward x t (count (.rxGood x) (s.quiet x dt)) = dispose x t (s.learned x dt t.src) := by
  have hc : (count (.rxGood x) (s.quiet x dt)).sourceConflict x t.src = false := h
  rw [forward, hc]
  rfl

/-- A decision without a reply leaves what it leaves, when port X awaits nothing. -/
theorem leaveAwait_silent {x : Side} {u : State} (h : (u.port x).state ≠ .awaitReply) :
    leaveAwait x (answerSlot x (u, none)) = u := leaveAwait_not_awaiting h

/-- A decision with a reply has port X begin it (R34, R18). -/
theorem leaveAwait_replyTo (x : Side) (t : Telegram) (kind : ReplyKind) (u : State) :
    leaveAwait x (answerSlot x (replyTo t (kind, u))) = replies x t kind u :=
  leaveAwait_not_awaiting (by simp [answerSlot, replyTo, startReply])

theorem numbered_replies (x : Side) (t : Telegram) (kind : ReplyKind) {u : State} (h : u.numbered = true) :
    (replies x t kind u).numbered = true := (numbered_setPort ..).trans h

/-- A reception that a port takes ends its step (R25; log 8). -/
theorem exec_receptionEnd_taken {s : State} {x : Side} {bytes : List Byte} {dt : Nat} (hready : s.ready = true)
    (hp : (s.port x).staging ≠ .passedOver)
    (h : (s.port x).state = .idle ∨ (s.port x).state = .defer ∨ (s.port x).state = .awaitReply) :
    exec (.receptionEnd dt x bytes) s = .next (finish (takeReception x bytes (s.quiet x dt))) := by
  rw [exec_receptionEnd hready, receptionEnds_taken (by simpa using hp) (by simpa using h), setPort_lineQuiet_elapse]

/-- An ordinary arrival that the source check lets pass ends its step as the decision that disposes of it does: without a
reply, or with port X's reply begun (R46, R34; log 8). -/
theorem arrival_endsAs {s : State} {x : Side} {bytes : List Byte} {t0 : Telegram} {dt : Nat} (hready : s.ready = true)
    (hrecv : s.receives x) (hcheck : checkReception bytes = .wellFormed t0)
    (hconf : (s.quiet x dt).sourceConflict x t0.src = false) :
    ∃ t, exec (.receptionEnd dt x bytes) s = .next t
      ∧ (∀ u v, dispose x t0 (s.learned x dt t0.src) = (v, none) → (v.port x).state ≠ .awaitReply →
        finish v = finish u → u.numbered = true → EndsAs u t)
      ∧ ∀ kind u, dispose x t0 (s.learned x dt t0.src) = replyTo t0 (kind, u) → u.numbered = true →
        EndsAs (replies x t0 kind u) t := by
  refine ⟨_, exec_receptionEnd_taken hready hrecv.2 (hrecv.1.imp_right .inl), fun u v hd hs hf hn => ?_,
    fun kind u hd hn => ?_⟩ <;> rw [takeReception_wellFormed hcheck, forward_of_no_conflict hconf, hd]
  · rw [leaveAwait_silent hs, hf]
    exact ends_finish hn
  · rw [leaveAwait_replyTo]
    exact ends_finish (numbered_replies x t0 kind hn)

end Sys2Proof.Machine
end

section
/-! SUPPORT. The arrivals that the source check discards, the stray replies, and the arrivals in an awaited slot: the
statements on them. -/

namespace Sys2Proof.Machine

/-! ## Discarded arrivals -/

/-- The source check in words (R47): OWN, or LOADED on the other side. -/
theorem sourceConflict_iff (s : State) (x : Side) (src : Nat) : s.sourceConflict x src = true ↔
    src = s.own ∨ ∃ e, s.lookup src = some e ∧ e.origin = .loaded ∧ e.side ≠ x := by
  unfold State.sourceConflict
  cases s.lookup src <;> simp [StationEntry.isLoaded]

/-- The source check reads nothing of the lines (R47). -/
theorem sourceConflict_quiet (s : State) (x y : Side) (dt src : Nat) :
    (s.quiet x dt).sourceConflict y src = s.sourceConflict y src := by
  simp [State.sourceConflict, State.lookup, State.quiet]

/-- A source conflict is counted and latched, and in an awaited slot gives no reply (R47, R117). -/
theorem forward_of_conflict {s : State} {x : Side} {t : Telegram} (h : s.sourceConflict x t.src = true) :
    forward x t s = (if (s.port x).state = .awaitReply
      then reportSlot x .noReply (latch .sourceConflict (count .sourceConflicts s))
      else latch .sourceConflict (count .sourceConflicts s), none) := by
  simp [forward, h]

/-- A stray reply is counted as a format error (R50). -/
theorem dispose_strayReply {s : State} {x : Side} {t : Telegram} (hs : (s.port x).state ≠ .awaitReply)
    (h : t.kind.isReply = true) : dispose x t s = (count (.rxFormatErr x) s, none) := by
  rw [dispose, if_neg hs, if_pos h]

/-- Settles O24: a source conflict outside and inside an awaited slot, a stray reply, and the source check in words. -/
theorem discardedArrivals : Obligations.DiscardedArrivals := by
  refine ⟨fun dt x bytes s t0 hready hn hcheck => ?_, fun x src s => sourceConflict_iff s x src⟩
  intro conflict s1
  have hiff : (count (.rxGood x) (s.quiet x dt)).sourceConflict x t0.src = true ↔ conflict :=
    (sourceConflict_quiet s x x dt t0.src) ▸ sourceConflict_iff s x t0.src
  have hport : s1.port x = (s.quiet x dt).port x := by simp [s1]
  have hnum : s1.numbered = true := by simpa [s1] using hn
  refine ⟨fun hrecv hconf => ?_, fun n r hs hp ha hr hconf => ?_, fun hrecv hconf hreply => ?_⟩
  · have hs : ((s.quiet x dt).port x).state ≠ .awaitReply := by simpa using hrecv.not_awaiting
    refine receptionEnd_endsAs hready hrecv.2 (hrecv.1.imp_right .inl) ?_ hnum
    rw [takeReception_wellFormed hcheck, forward_of_conflict (hiff.mpr hconf), if_neg (by simpa using hs)]
    exact leaveAwait_silent (u := s1) (by rwa [hport])
  · have hs' : ((s.quiet x dt).port x).state = .awaitReply := by simpa using hs
    have hslot : reportSlot x .noReply s1 = outcomeFailed r .noReply s1 :=
      reportSlot_noReply (by simpa [hport] using ha) (by simpa [s1] using hr)
    have hfailed : (outcomeFailed r .noReply s1).numbered = true := numbered_outcomeFailed r .noReply hnum
    refine receptionEnd_endsAs hready hp (.inr (.inr hs)) ?_ ((numbered_setPort ..).trans hfailed)
    rw [takeReception_wellFormed hcheck, forward_of_conflict (hiff.mpr hconf), if_pos (by simpa using hs), hslot]
    exact leaveAwait_awaiting (by rw [answerSlot, port_outcomeFailed, hport, hs'])
  · have hc : (s.quiet x dt).sourceConflict x t0.src = false := Bool.eq_false_iff.mpr fun h => hconf (hiff.mp h)
    obtain ⟨t, he, hsilent, -⟩ := arrival_endsAs (dt := dt) hready hrecv hcheck hc
    have hs : ((s.learned x dt t0.src).port x).state ≠ .awaitReply :=
      (learned_awaits_iff s x dt t0.src).not.mpr hrecv.not_awaiting
    exact ⟨t, he, hsilent _ _ (dispose_strayReply hs hreply) (by simpa using hs) rfl (numbered_learned hn x dt t0.src)⟩

/-! ## Slot arrivals -/

/-- The outcome of a slot arrival for the record `r` that port X awaits (R49, R13). -/
def slotResult (x : Side) (t : Telegram) (r : Record) (s : State) : State :=
  if t.kind.isReply then
    match matchReply r t with
    | .ack => deliver r s
    | .busy => outcomeBusy r s
    | .reject reason => outcomeReject r reason s
    | .noReply => outcomeFailed r .noReply s
  else outcomeFailed r .noReply (count (.rxFormatErr x) s)

/-- A slot arrival gives its record the outcome of R13 (R49). -/
theorem slotArrival_eq {x : Side} {t : Telegram} {s : State} {n : Nat} {r : Record} (ha : (s.port x).awaited = some n)
    (hr : s.record? n = some r) : slotArrival x t s = slotResult x t r s := by
  unfold slotArrival slotResult
  split
  · simp only [ha, hr, Option.bind_some]
    cases matchReply r t <;> simp [reportSlot, slotOutcome, ha, hr]
  · exact reportSlot_noReply (by simpa using ha) (by simpa using hr)

theorem outcomeReject_ends (r : Record) (reason : Byte) (s : State) :
    ∃ q why, outcomeReject r reason s = endUndelivered q why s := by
  unfold outcomeReject
  split <;> exact ⟨_, _, rfl⟩

/-- Whatever the outcome of a slot, ports and record numbers stay (R114 to R117). -/
theorem slotResult_keeps (x : Side) (t : Telegram) (r : Record) {s : State} (h : s.numbered = true) :
    (∀ y, (slotResult x t r s).port y = s.port y) ∧ (slotResult x t r s).numbered = true := by
  have hend : ∀ q why, (∀ y, (endUndelivered q why s).port y = s.port y) ∧ (endUndelivered q why s).numbered = true :=
    fun q why => ⟨port_congr (endUndelivered_keeps q why s).portA (endUndelivered_keeps q why s).portB,
      numbered_endUndelivered q why h⟩
  unfold slotResult
  split
  · split
    · exact ⟨port_congr (deliver_keeps r s).portA (deliver_keeps r s).portB, numbered_deliver r h⟩
    · rcases outcomeBusy_cases r s with ⟨why, e⟩ | e <;> rw [e]
      · exact hend _ why
      · exact ⟨port_congr rfl rfl, numbered_updateRecord _ _ (fun _ _ => rfl) h⟩
    · obtain ⟨q, why, e⟩ := outcomeReject_ends r ‹_› s
      exact e ▸ hend q why
    · exact ⟨fun y => port_outcomeFailed r .noReply y s, numbered_outcomeFailed r .noReply h⟩
  · exact ⟨fun y => (port_outcomeFailed r .noReply y _).trans (port_countBy ..), numbered_outcomeFailed r .noReply h⟩

end Sys2Proof.Machine

namespace Sys2Proof.Settled

open Sys2Proof.Machine

/-- Settles O25: the outcome of the awaited slot by the arrival's kind, SEQ and DST. -/
theorem slotArrival : Obligations.SlotArrival := by
  refine ⟨fun dt x bytes s t0 n r hready hn hcheck hconf hs hp ha => ?_, fun x s => rfl⟩
  intro s2 hr
  have hport : s2.port x = { s.port x with staging := .empty, quietSince := s.now + dt } :=
    (port_learn_awaiting x t0.src (by simpa using hs)).trans (by simp)
  have hs2 : (s2.port x).state = .awaitReply := by rw [hport, hs]
  obtain ⟨hports, hnum⟩ := slotResult_keeps x t0 r (numbered_learned hn x dt t0.src)
  have htake : takeReception x bytes (s.quiet x dt) = awaitOver x (slotResult x t0 r s2) := by
    rw [takeReception_wellFormed hcheck, forward_of_no_conflict hconf, dispose, if_pos hs2,
      slotArrival_eq (by rw [hport, ha]) hr]
    exact leaveAwait_awaiting (by rw [answerSlot, hports, hs2])
  obtain ⟨t, he, hends⟩ := receptionEnd_endsAs hready hp (.inr (.inr hs)) htake ((numbered_setPort ..).trans hnum)
  refine ⟨t, he, fun h1 h2 hk => ?_, fun h1 h2 hk => ?_, fun reason h1 h2 hk hpl => ?_, fun hk hne => ?_, fun hk => ?_⟩
  · simpa [slotResult, matchReply, Kind.isReply, h1, h2, hk] using hends
  · simpa [slotResult, matchReply, Kind.isReply, h1, h2, hk] using hends
  · simpa [slotResult, matchReply, Kind.isReply, h1, h2, hk, hpl] using hends
  · have hm : matchReply r t0 = .noReply := if_neg fun h => hne.elim (· h.1) (· h.2)
    simpa [slotResult, hk, hm] using hends
  · simpa [slotResult, hk] using hends

end Sys2Proof.Settled
end

section
/-! SUPPORT. The learning stage (R48, R63 to R68): what it does to the Station Table, and the statement on it. -/

namespace Sys2Proof.Machine

/-! ## Looking up an ordered table -/

section
variable {α : Type} {key : α → Nat}

/-- What a key finds after `a` has been put: `a` under its own key, and what it found before under any other. -/
theorem find?_insertBy (a : α) (l : List α) (n : Nat) :
    (insertBy key a l).find? (fun b => key b == n) = if n = key a then some a else l.find? (fun b => key b == n) := by
  induction l with
  | nil => by_cases h : n = key a <;> simp [insertBy, h, Ne.symm]
  | cons b l ih =>
    simp only [insertBy]
    by_cases h : n = key a
    · subst h
      simp only [↓reduceIte] at ih ⊢
      split
      · simp
      · split
        · simp
        · rename_i hne
          rw [List.find?_cons_of_neg (by simpa using fun e => hne e.symm), ih]
    · have ha : ¬ key a = n := fun e => h e.symm
      rw [if_neg h] at ih ⊢
      split
      · simp [ha]
      · split
        · rename_i e
          have hb : ¬ key b = n := fun e' => ha (e.trans e')
          simp [ha, hb]
        · simp only [List.find?_cons, ih]

/-- Putting an entry with a new key adds one place. -/
theorem length_insertBy_of_new (a : α) {l : List α} (h : ∀ b ∈ l, key b ≠ key a) :
    (insertBy key a l).length = l.length + 1 := by
  simpa [sumCells, Nat.add_comm] using sumCells_insertBy (fun _ => 1) a h

end

/-- An entry that is found stands in the table under its number. -/
theorem lookup_mem {s : State} {n : Nat} {e : StationEntry} (h : s.lookup n = some e) :
    e ∈ s.stations ∧ e.station = n := ⟨List.mem_of_find?_eq_some h, by simpa using List.find?_some h⟩

theorem lookup_none {s : State} {n : Nat} (h : s.lookup n = none) : ∀ e ∈ s.stations, e.station ≠ n := by
  simpa [State.lookup] using h

/-- What a station number finds after an entry has been put (R44). -/
theorem lookup_putStation (e : StationEntry) (s : State) (n : Nat) :
    (putStation e s).lookup n = if n = e.station then some e else s.lookup n := find?_insertBy e s.stations n

/-! ## The route check and the Station Table -/

theorem withdraw_stations (r : Record) (cause : Mark) (s : State) : (withdraw r cause s).stations = s.stations := by
  rcases withdraw_cases r cause s with ⟨-, e⟩ | ⟨-, e⟩ | ⟨-, e⟩ <;> rw [e]
  · rfl
  · rw [(endUndelivered_keeps r _ _).tables.1]
    rcases dropRecordChoice_cases r s with e | ⟨-, e⟩ <;> rw [e]
    exact setPort_stations ..

/-- The route check reads the Station Table and leaves it (R127). -/
theorem routeCheck_stations (chosen : Record → Bool) (s : State) : (routeCheck chosen s).stations = s.stations := by
  have hw := withdrawAll_induction (P := fun v => v.stations = s.stations) .unrouted
    (s.records.filter fun r => r.origin == .forward && chosen r && s.unrouted r)
    (fun r v hv => (withdraw_stations r .unrouted v).trans hv) rfl
  exact ((arbitrate_keeps .b _).1.2.1.1.trans (arbitrate_keeps .a _).1.2.1.1).trans hw

/-! ## The learning stage -/

/-- A LEARNED entry as it stands after its station has been heard on side X (R66, R67). -/
def StationEntry.heard (x : Side) (e : StationEntry) : StationEntry := { e with side := x, origin := .learned 0 }

theorem learn_of_off {s : State} (h : s.params.mode = .isolate ∨ s.params.learn = false) (x : Side) (src : Nat) :
    learn x src s = s := by
  rcases h with h | h <;> simp [learn, h]

section
variable {s : State} (hm : s.params.mode = .forward) (hl : s.params.learn = true) (x : Side) {src : Nat}
include hm hl

theorem learn_of_unknown (h : s.lookup src = none) : learn x src s = learnNew x src s := by simp [learn, hm, hl, h]

theorem learn_of_loaded {e : StationEntry} (h : s.lookup src = some e) (ho : e.origin = .loaded) : learn x src s = s := by
  simp [learn, hm, hl, h, ho]

theorem learn_of_learned {e : StationEntry} {idle : Nat} (h : s.lookup src = some e) (ho : e.origin = .learned idle) :
    learn x src s = learnHeard x e s := by
  simp [learn, hm, hl, h, ho]

end

/-- The table after a LEARNED entry has been heard, in its old place or in a new one (R66, R67). -/
theorem learnHeard_stations (x : Side) (e : StationEntry) (s : State) :
    (learnHeard x e s).stations = (putStation (e.heard x) s).stations := by
  unfold learnHeard
  dsimp only
  split
  · rfl
  · exact routeCheck_stations ..

/-- The route check of a station heard on another side: a FORWARD record for it is unrouted when it came in there, or when
the station's admit-confirmed flag is off (R68, R127). -/
theorem unrouted_of_moved {s : State} (hm : s.params.mode = .forward) {e : StationEntry} {r : Record}
    (h : s.lookup r.destination = some e) : s.unrouted r = (r.inSide == e.side || !e.admitConfirmed) := by
  rw [State.unrouted, hm, h]
  simp [Bool.beq_comm]

/-- All that a move does to the records (R68, R127). -/
theorem learnHeard_moved {s : State} (hm : s.params.mode = .forward) (hn : s.numbered = true) {x : Side} {e : StationEntry}
    (hx : e.side ≠ x) : ∃ v, learnHeard x e s = arbitrateBoth v
      ∧ Withdrawn .unrouted
        (fun r => r.origin == .forward && r.destination == e.station && (r.inSide == x || !e.admitConfirmed))
        (latch .stationMoved (putStation (e.heard x) s)) v := by
  have hlook : ∀ n, (latch .stationMoved (putStation (e.heard x) s)).lookup n
      = if n = e.station then some (e.heard x) else s.lookup n := lookup_putStation (e.heard x) s
  obtain ⟨v, hv, hw⟩ := routeCheck_spec (fun r => r.destination == e.station)
    (s := latch .stationMoved (putStation (e.heard x) s)) hn
  refine ⟨v, ?_, ?_⟩
  · rw [← hv, learnHeard]
    exact if_neg hx
  · convert hw using 2 with r
    by_cases hd : r.destination = e.station
    · rw [unrouted_of_moved (s := latch .stationMoved (putStation (e.heard x) s)) hm ((hlook _).trans (if_pos hd))]
      rfl
    · rw [beq_false_of_ne hd, Bool.and_false, Bool.false_and, Bool.false_and]

end Sys2Proof.Machine

namespace Sys2Proof.Settled

open Sys2Proof.Machine

/-- Settles O26: the learning stage by the source's entry, or none. -/
theorem learning : Obligations.Learning := by
  intro x src s hasc u
  refine ⟨fun h => learn_of_off h x src, fun hm hl => ⟨fun h hlt => ?_, fun h hfull => ?_, fun e h ho =>
    learn_of_loaded hm hl x h ho, fun e idle h ho => ?_, fun n hne => ?_⟩⟩
  · have hu : u = putStation (learnedEntry x src s) s := (learn_of_unknown hm hl x h).trans (if_pos hlt)
    refine ⟨?_, ?_, by rw [hu]; rfl⟩ <;> rw [hu]
    · refine (lookup_putStation ..).trans ((if_pos rfl).trans ?_)
      rw [learnedEntry]
      cases s.params.learnAdmit <;> simp [LearnAdmit.plainFlag, LearnAdmit.confirmedFlag]
    · exact length_insertBy_of_new _ (lookup_none h)
  · exact (learn_of_unknown hm hl x h).trans (if_neg (Nat.not_lt.mpr hfull))
  · have hu : u = learnHeard x e s := learn_of_learned hm hl x h ho
    obtain ⟨hmem, hsrc⟩ := lookup_mem h
    have hst : u.stations = (putStation (e.heard x) s).stations := by rw [hu, learnHeard_stations]
    have hlook : u.lookup src = (putStation (e.heard x) s).lookup src := by rw [State.lookup, hst]; rfl
    refine ⟨?_, ?_, fun hx => ?_, fun hx hn => ?_⟩
    · rw [hlook, lookup_putStation]
      exact if_pos hsrc.symm
    · rw [hst]
      exact length_insertBy_of_mem _ hasc hmem rfl
    · rw [hst, hu, learnHeard]
      exact if_pos hx
    · obtain ⟨v, hv, hw⟩ := learnHeard_moved hm hn hx
      refine ⟨v, hu.trans hv, ?_⟩
      rw [hst, ← hsrc]
      exact hw
  · cases h : s.lookup src with
    | none =>
      have hu : u = learnNew x src s := learn_of_unknown hm hl x h
      rw [hu, learnNew]
      split
      · rw [lookup_putStation]
        exact if_neg hne
      · rfl
    | some e =>
      cases ho : e.origin with
      | loaded => rw [show u = s from learn_of_loaded hm hl x h ho]
      | learned idle =>
        have hu : u = learnHeard x e s := learn_of_learned hm hl x h ho
        rw [State.lookup, hu, learnHeard_stations]
        exact (lookup_putStation (e.heard x) s n).trans (if_neg ((lookup_mem h).2 ▸ hne))

end Sys2Proof.Settled
end

section
/-! SUPPORT. What a well-formed telegram's fields keep to (R9), and the forwarding decision by the stage that disposes of an
arrival (R51 to R60), once each. -/

namespace Sys2Proof.Machine

/-! ## The fields of a well-formed telegram -/

/-- What a port's checks let pass has been read from a header and payload (R8, R9). -/
theorem parseBody_of_wellFormed {bytes : List Byte} {t : Telegram} (h : checkReception bytes = .wellFormed t) :
    ∃ body, parseBody body = some t := by
  unfold checkReception at h
  dsimp only at h
  split at h
  · cases h
  · split at h
    · split at h
      · cases h
        exact ⟨_, by assumption⟩
      · cases h
    · cases h

/-- A telegram read from a header and payload meets R9, and its DST is a number of 11 bits (R184). -/
theorem fieldsOk_of_parseBody {body : List Byte} {t : Telegram} (h : parseBody body = some t) :
    (∃ reserved len, fieldsOk reserved len t = true) ∧ t.dst < 2048 := by
  unfold parseBody at h
  split at h
  · dsimp only at h
    split at h
    · cases h
    · split at h
      · cases h
        exact ⟨⟨_, _, by assumption⟩, BitVec.isLt _⟩
      · cases h
  · cases h

/-- The destination of a well-formed telegram (R1, R9): never none, individual for a confirmed kind, broadcast for an
SRESET. -/
theorem dst_of_wellFormed {bytes : List Byte} {t : Telegram} (h : checkReception bytes = .wellFormed t) :
    1 ≤ t.dst ∧ t.dst ≤ 2047 ∧ (t.kind.isConfirmed = true → isIndividual t.dst = true)
      ∧ (t.kind = .sreset → t.dst = 2047) := by
  obtain ⟨body, hbody⟩ := parseBody_of_wellFormed h
  obtain ⟨⟨reserved, len, hok⟩, hlt⟩ := fieldsOk_of_parseBody hbody
  simp only [fieldsOk, Bool.and_eq_true, bne_iff_ne, Bool.not_eq_true', Bool.and_eq_false_iff] at hok
  obtain ⟨⟨⟨-, hne⟩, hconf⟩, hkind⟩ := hok
  refine ⟨by omega, by omega, fun hk => ?_, fun hk => ?_⟩
  · have : t.dst < 1984 := by simpa [hk] using hconf
    simp [isIndividual]
    omega
  · simp only [hk, Bool.and_eq_true, beq_iff_eq, broadcast] at hkind
    exact hkind.1

/-- An individual number is no group and not the broadcast number (R1). -/
theorem not_group_of_individual {n : Nat} (h : isIndividual n = true) : isGroup n = false ∧ n ≠ broadcast := by
  simp only [isIndividual, Bool.and_eq_true, decide_eq_true_eq] at h
  refine ⟨?_, by unfold broadcast; omega⟩
  simp [isGroup]
  omega

/-- A number of 11 bits other than none is a group, the broadcast number or individual (R1). -/
theorem group_or_broadcast_or_individual {n : Nat} (h1 : 1 ≤ n) (h2 : n ≤ 2047) :
    isGroup n = true ∨ n = broadcast ∨ isIndividual n = true := by
  simp only [isGroup, broadcast, isIndividual, Bool.and_eq_true, decide_eq_true_eq]
  omega

/-! ## The stages after the slot and the stray reply -/

section
variable {s : State} {x : Side} {t : Telegram} (hs : (s.port x).state ≠ .awaitReply) (hr : t.kind.isReply = false)
include hs hr

theorem dispose_own (h : t.dst = s.own) : dispose x t s = toOwn x t s := by
  rw [dispose, if_neg hs, if_neg (by simp [hr]), if_pos h]

theorem dispose_sreset (h : t.dst ≠ s.own) (hk : t.kind = .sreset) :
    dispose x t s = (sresetArrival x t s, none) := by
  rw [dispose, if_neg hs, if_neg (by simp [hr]), if_neg h, if_pos hk]

theorem dispose_other (h : t.dst ≠ s.own) (hk : t.kind ≠ .sreset) : dispose x t s = classify x t s := by
  rw [dispose, if_neg hs, if_neg (by simp [hr]), if_neg h, if_neg hk]

end

/-- A confirmed kind is neither a reply nor an SRESET (R5). -/
theorem Kind.not_reply_of_confirmed {k : Kind} (h : k.isConfirmed = true) : k.isReply = false ∧ k ≠ .sreset := by
  cases k <;> simp_all [Kind.isConfirmed, Kind.isReply]

/-- In ISOLATE mode nothing crosses (R55). -/
theorem classify_isolate (x : Side) (t : Telegram) {s : State} (h : s.params.mode = .isolate) :
    classify x t s = (s, none) := if_pos h

theorem classify_group (x : Side) {t : Telegram} {s : State} (hm : s.params.mode = .forward) (h : isGroup t.dst = true) :
    classify x t s = if (s.passSet x).getLsbD (t.dst - 1984) then (plainHandOff x t s, none) else (s, none) := by
  rw [classify, if_neg (by simp [hm]), if_pos h]

theorem classify_broadcast (x : Side) {t : Telegram} {s : State} (hm : s.params.mode = .forward) (h : t.dst = broadcast) :
    classify x t s = if s.broadcastSetting x = .pass then (plainHandOff x t s, none) else (s, none) := by
  rw [classify, if_neg (by simp [hm]), if_neg (by simp [h, isGroup, broadcast]), if_pos h]
  cases s.broadcastSetting x <;> rfl

theorem classify_individual (x : Side) {t : Telegram} {s : State} (hm : s.params.mode = .forward)
    (h : isIndividual t.dst = true) :
    classify x t s = (s.lookup t.dst).elim (toUnknown x t s) fun e => toKnown x t e s := by
  obtain ⟨hg, hb⟩ := not_group_of_individual h
  rw [classify, if_neg (by simp [hm]), if_neg (by simp [hg]), if_neg hb]
  cases s.lookup t.dst <;> rfl

/-! ## Plain telegrams -/

/-- A PDATA is handed off when its direction passes it, and is discarded when not (R55 to R60). -/
theorem classify_pdata (x : Side) {t : Telegram} {s : State} (hk : t.kind = .pdata) (h1 : 1 ≤ t.dst) (h2 : t.dst ≤ 2047) :
    (s.passesPlain x t.dst → classify x t s = (plainHandOff x t s, none))
      ∧ (¬ s.passesPlain x t.dst → classify x t s = (s, none)) := by
  have hconf : t.kind.isConfirmed = false := by rw [hk]; rfl
  cases hm : s.params.mode with
  | isolate => exact ⟨fun h => absurd h.1 (by simp [hm]), fun _ => classify_isolate x t hm⟩
  | forward =>
    rcases group_or_broadcast_or_individual h1 h2 with h | h | h
    · have hb : t.dst ≠ 2047 := fun e => by simp [e, isGroup] at h
      have hi : isIndividual t.dst = false := Bool.eq_false_iff.mpr fun e => by simp [(not_group_of_individual e).1] at h
      have hp : s.passesPlain x t.dst ↔ (s.passSet x).getLsbD (t.dst - 1984) = true := by
        simp [State.passesPlain, hm, h, hb, hi]
      rw [classify_group x hm h, hp]
      exact ⟨fun h => if_pos h, fun h => if_neg h⟩
    · have hp : s.passesPlain x t.dst ↔ s.broadcastSetting x = .pass := by
        simp [State.passesPlain, hm, h, broadcast, isGroup, isIndividual]
      rw [classify_broadcast x hm h, hp]
      exact ⟨fun h => if_pos h, fun h => if_neg h⟩
    · obtain ⟨hg, hb⟩ := not_group_of_individual h
      rw [classify_individual x hm h]
      cases hl : s.lookup t.dst with
      | none => cases hp : s.params.unknownPolicy <;>
          simp [State.passesPlain, hm, h, hg, show t.dst ≠ 2047 from hb, hl, hp, toUnknown, hconf]
      | some e =>
        by_cases hx : e.side = x <;> cases ha : e.admitPlain <;>
          simp [State.passesPlain, hm, h, hg, show t.dst ≠ 2047 from hb, hl, toKnown, hx, ha, hconf]

/-- The storage that a plain hand-off toward the other side needs (R83, R76). -/
def State.fitsPlain (s : State) (x : Side) (t : Telegram) : Prop :=
  (s.port x.other).state ≠ .down ∧ (s.queue x.other).length < 48
    ∧ cellsFor t.payload.length + s.params.plainReserve ≤ s.free

/-- The state in which a telegram has joined the other side's plain queue (R83). -/
def joinQueue (x : Side) (t : Telegram) (s : State) : State :=
  setQueue x.other (s.queue x.other ++ [{ inSide := x, telegram := t }]) (claimCells (cellsFor t.payload.length) s)

/-- The plain hand-off stores its telegram, after which the other side's arbiter runs, or drops it (R61, R83). -/
theorem plainHandOff_cases (x : Side) (t : Telegram) (s : State) :
    (s.fitsPlain x t → plainHandOff x t s = arbitrate x.other (joinQueue x t s))
      ∧ (¬ s.fitsPlain x t → plainHandOff x t s = count (.plainDropped x.other) s) := by
  have hiff : ((s.port x.other).state = .down ∨ Config.plainQueueLimit ≤ (s.queue x.other).length
      ∨ s.free < cellsFor t.payload.length + s.params.plainReserve) ↔ ¬ s.fitsPlain x t := by
    simp only [State.fitsPlain, Config.plainQueueLimit, ne_eq, not_and_or, not_not, not_lt, not_le]
  have hq : (claimCells (cellsFor t.payload.length) s).queue x.other = s.queue x.other := queue_congr rfl rfl _
  refine ⟨fun h => ?_, fun h => if_pos (hiff.mpr h)⟩
  rw [plainHandOff, joinQueue, ← hq]
  exact if_neg fun h' => hiff.mp h' h

/-! ## Chosen replies -/

/-- A telegram that the duplicate table answers is a duplicate (R88). -/
theorem answerDuplicate_of_dup (x : Side) {t : Telegram} {s : State} {e : DupEntry} (h : s.dup? t.src = some e)
    (hseq : e.seq = t.seq) : answerDuplicate x t s = some (e.reply, renewDup x e s) := by
  simp [answerDuplicate, h, hseq, renewDup]

theorem answerDuplicate_of_new (x : Side) {t : Telegram} {s : State} (h : s.isNew t.src t.seq) :
    answerDuplicate x t s = none := by
  unfold answerDuplicate
  split
  · rfl
  · rename_i e he
    exact if_neg (h e he)

/-- The reply that the forwarding decision chooses for an arrival (R51, R52, R60, R104). -/
theorem dispose_chosen {s : State} {x : Side} {t : Telegram} {reply : FinalReply} (hs : (s.port x).state ≠ .awaitReply)
    (hi : t.kind.isConfirmed = true → isIndividual t.dst = true)
    (h : (t.dst = s.own ∧ t.kind = .notice ∧ reply = .ack)
      ∨ (t.dst = s.own ∧ (t.kind = .cdata ∨ t.kind = .mrsp ∨ t.kind = .event) ∧ reply = .reject .noService)
      ∨ (t.dst ≠ s.own ∧ t.kind.isConfirmed = true ∧ s.params.mode = .forward ∧ s.lookup t.dst = none
        ∧ s.params.unknownPolicy = .reject ∧ reply = .reject .unknownDest)) :
    dispose x t s = replyTo t (giveChosen x t reply s) := by
  rcases h with ⟨ho, hk, rfl⟩ | ⟨ho, hk, rfl⟩ | ⟨ho, hk, hm, hl, hp, rfl⟩
  · rw [dispose_own hs (by rw [hk]; rfl) ho, toOwn, hk]
  · rcases hk with hk | hk | hk <;> rw [dispose_own hs (by rw [hk]; rfl) ho, toOwn, hk]
  · obtain ⟨hr, hsr⟩ := Kind.not_reply_of_confirmed hk
    rw [dispose_other hs hr ho hsr, classify_individual x hm (hi hk), hl, Option.elim_none, toUnknown, hp]
    exact if_pos hk

end Sys2Proof.Machine
end

section
/-! SUPPORT. The end of a step after an arbiter has already run (log 8), and the statements on the arrivals that the relay
passes on, drops or leaves without a reply. -/

namespace Sys2Proof.Machine

/-! ## An arbiter that has already run -/

/-- What an arbiter does once it is known what its port takes: nothing, a record taken, or the plain head taken. -/
def IsTaking (x : Side) (f : State → State) : Prop := f = id ∨ (∃ r, f = chooseRecord x r) ∨ f = choosePlain x

/-- An arbiter does the same in every state in which its port would take the same. -/
theorem arbitrate_eq_taking (x : Side) (s : State) : ∃ f, IsTaking x f ∧ ∀ t : State,
    (∀ r, t.takesRecord x r ↔ s.takesRecord x r) → (t.takesPlain x ↔ s.takesPlain x) → arbitrate x t = f t := by
  by_cases hr : ∃ r, s.takesRecord x r
  · obtain ⟨r, hr⟩ := hr
    exact ⟨_, .inr (.inl ⟨r, rfl⟩), fun t h _ => (arbitrate_takes x t).1 r ((h r).mpr hr)⟩
  · have hr' : ∀ r, ¬ s.takesRecord x r := fun r h => hr ⟨r, h⟩
    by_cases hp : s.takesPlain x
    · exact ⟨_, .inr (.inr rfl), fun t _ h => (arbitrate_takes x t).2.1 (h.mpr hp)⟩
    · exact ⟨_, .inl rfl, fun t h h' =>
        (arbitrate_takes x t).2.2 (fun r ht => hr' r ((h r).mp ht)) fun ht => hp (h'.mp ht)⟩

/-- What two sides take does not depend on which takes first. -/
theorem taking_comm {x y : Side} (h : y ≠ x) {f g : State → State} (hf : IsTaking x f) (hg : IsTaking y g) (s : State) :
    f (g s) = g (f s) := by
  have hrecords : ∀ (m n : Nat) (l : List Record),
      (l.map fun r => if r.number = m then { r with state := RecordState.sending } else r).map
          (fun r => if r.number = n then { r with state := .sending } else r)
        = (l.map fun r => if r.number = n then { r with state := RecordState.sending } else r).map
          (fun r => if r.number = m then { r with state := .sending } else r) := by
    intro m n l
    simp only [List.map_map]
    refine List.map_congr_left fun r _ => ?_
    simp only [Function.comp]
    split <;> split <;> simp_all
  have hxy : y = x.other := by revert h; cases x <;> cases y <;> simp [Side.other]
  subst hxy
  rcases hf with rfl | ⟨r, rfl⟩ | rfl
  · rfl
  · rcases hg with rfl | ⟨q, rfl⟩ | rfl
    · rfl
    · simp only [chooseRecord, updateRecord]
      cases x <;> simp [State.port, setPort, Side.other, hrecords]
    · cases x <;> rfl
  · rcases hg with rfl | ⟨q, rfl⟩ | rfl
    · rfl
    · cases x <;> rfl
    · cases x <;> rfl

/-- The arbiters of the two sides may run in either order (log 8). -/
theorem arbitrate_comm {s : State} (hn : s.numbered = true) {x y : Side} (h : y ≠ x) :
    arbitrate x (arbitrate y s) = arbitrate y (arbitrate x s) := by
  obtain ⟨f, hf, hfs⟩ := arbitrate_eq_taking x s
  obtain ⟨g, hg, hgs⟩ := arbitrate_eq_taking y s
  obtain ⟨hrx, hpx⟩ := takes_arbitrate hn (x := y) (y := x) h.symm
  obtain ⟨hry, hpy⟩ := takes_arbitrate hn h
  rw [hfs _ hrx hpx, hgs _ hry hpy, hfs s (fun _ => Iff.rfl) Iff.rfl, hgs s (fun _ => Iff.rfl) Iff.rfl]
  exact taking_comm h hf hg s

/-- An arbiter that has run finds nothing more to take. -/
theorem arbitrate_arbitrate (x : Side) (s : State) : arbitrate x (arbitrate x s) = arbitrate x s := by
  by_cases h : ((arbitrate x s).port x).state = .idle
  · have e := (arbitrate_idle h).1
    rw [e, e]
  · exact arbitrate_not_idle h

/-- The end of a step does the same when one arbiter has already run (log 8). -/
theorem finish_arbitrate {s : State} (hn : s.numbered = true) (x : Side) : finish (arbitrate x s) = finish s := by
  have e : arbitrateBoth (arbitrate x s) = arbitrateBoth s := by
    cases x with
    | a => rw [arbitrateBoth, arbitrate_arbitrate, arbitrateBoth]
    | b => rw [arbitrateBoth, arbitrate_comm hn (by decide), arbitrate_arbitrate, arbitrateBoth]
  rw [finish, finish, e]

/-! ## The plain hand-off at the end of a step -/

theorem numbered_joinQueue (x : Side) (t : Telegram) (s : State) : (joinQueue x t s).numbered = s.numbered := by
  simp [joinQueue, State.numbered]

theorem numbered_plainHandOff (x : Side) (t : Telegram) {s : State} (h : s.numbered = true) :
    (plainHandOff x t s).numbered = true := by
  by_cases hf : s.fitsPlain x t
  · rw [(plainHandOff_cases x t s).1 hf]
    exact numbered_arbitrate _ ((numbered_joinQueue x t s).trans h)
  · rw [(plainHandOff_cases x t s).2 hf]
    exact h

/-- A hand-off toward the other side leaves the port of the arrival (R61). -/
theorem port_plainHandOff (x : Side) (t : Telegram) (s : State) : (plainHandOff x t s).port x = s.port x := by
  by_cases hf : s.fitsPlain x t
  · have h := arbitrate_other x.other (joinQueue x t s)
    rw [Side.other_other] at h
    rw [(plainHandOff_cases x t s).1 hf, h, joinQueue, port_setQueue]
    exact port_congr rfl rfl x
  · rw [(plainHandOff_cases x t s).2 hf]
    simp

/-- Settles O30: a PDATA is handed off when its direction passes it, and is stored when it fits. -/
theorem plainCrossing : Obligations.PlainCrossing := by
  refine ⟨fun dt x bytes s t0 hready hn hrecv hcheck hk hconf => ?_, fun s => ⟨rfl, rfl, rfl, rfl⟩⟩
  intro s2 cells fits
  obtain ⟨h1, h2, -, -⟩ := dst_of_wellFormed hcheck
  have hs : (s2.port x).state ≠ .awaitReply := (learned_awaits_iff s x dt t0.src).not.mpr hrecv.not_awaiting
  have hn2 : s2.numbered = true := numbered_learned hn x dt t0.src
  have hown : s2.own = s.own := (learned_keepsConfig s x dt t0.src).1
  have hr : t0.kind.isReply = false := by rw [hk]; rfl
  obtain ⟨hpass, hdiscard⟩ := classify_pdata x (s := s2) hk h1 h2
  obtain ⟨hstored, hdropped⟩ := plainHandOff_cases x t0 s2
  have hother : t0.dst ≠ s.own → dispose x t0 s2 = classify x t0 s2 := fun h =>
    dispose_other hs hr (hown ▸ h) (by simp [hk])
  have hport : ((plainHandOff x t0 s2).port x).state ≠ .awaitReply := port_plainHandOff x t0 s2 ▸ hs
  obtain ⟨t, he, hends, -⟩ := arrival_endsAs (dt := dt) hready hrecv hcheck hconf
  refine ⟨t, he, fun ho hp hfits => ?_, fun ho hp hfits => ?_, fun h => ?_⟩
  · have hnj : (joinQueue x t0 s2).numbered = true := (numbered_joinQueue x t0 s2).trans hn2
    exact hends (joinQueue x t0 s2) _ ((hother ho).trans (hpass hp)) hport
      (by rw [hstored hfits, finish_arbitrate hnj]) hnj
  · exact hends _ _ ((hother ho).trans (hpass hp)) hport (by rw [hdropped hfits]) hn2
  · refine hends _ _ ?_ hs rfl hn2
    by_cases ho : t0.dst = s.own
    · rw [dispose_own hs hr (ho.trans hown.symm), toOwn, hk]
    · exact (hother ho).trans (hdiscard (h.resolve_left ho))

/-- A confirmed telegram that crosses nothing and gets no reply (R55, R58, R60). -/
theorem classify_silent {s : State} {x : Side} {t : Telegram} (hi : isIndividual t.dst = true)
    (h : s.params.mode = .isolate ∨ (∃ e, s.lookup t.dst = some e ∧ e.side = x)
      ∨ (s.lookup t.dst = none ∧ s.params.unknownPolicy = .ignore)) : classify x t s = (s, none) := by
  cases hm : s.params.mode with
  | isolate => exact classify_isolate x t hm
  | forward =>
    rw [classify_individual x hm hi]
    rcases h with h | ⟨e, hl, hx⟩ | ⟨hl, hp⟩
    · simp [hm] at h
    · rw [hl, Option.elim_some, toKnown, if_pos hx]
    · rw [hl, Option.elim_none, toUnknown, hp]

/-- Settles O31: a confirmed telegram in ISOLATE mode, to a station of its own side, or to an unknown one that is ignored. -/
theorem silentDiscards : Obligations.SilentDiscards := by
  intro dt x bytes s t0 hready hn hrecv hcheck hk ho hconf s2 h
  obtain ⟨-, -, hi, -⟩ := dst_of_wellFormed hcheck
  obtain ⟨hown, -, hparams, -⟩ := learned_keepsConfig s x dt t0.src
  obtain ⟨hr, hsr⟩ := Kind.not_reply_of_confirmed hk
  have hs : (s2.port x).state ≠ .awaitReply := (learned_awaits_iff s x dt t0.src).not.mpr hrecv.not_awaiting
  obtain ⟨t, he, hends, -⟩ := arrival_endsAs (dt := dt) hready hrecv hcheck hconf
  have hd : dispose x t0 s2 = (s2, none) :=
    (dispose_other hs hr (fun e => ho (e.trans hown)) hsr).trans (classify_silent (hi hk) (by rwa [← hparams] at h))
  exact ⟨t, he, hends _ _ hd hs rfl (numbered_learned hn x dt t0.src)⟩

end Sys2Proof.Machine
end

section
/-! SUPPORT. What the duplicate table keeps of a decision (R87 to R90), and the statement on the replies that the forwarding
decision chooses. -/

namespace Sys2Proof.Machine

/-! ## Looking up the duplicate table -/

/-- The duplicate entry that is found stands in the table under its source. -/
theorem dup?_mem {s : State} {n : Nat} {e : DupEntry} (h : s.dup? n = some e) : e ∈ s.dups ∧ e.source = n :=
  ⟨List.mem_of_find?_eq_some h, by simpa using List.find?_some h⟩

theorem dup?_none {s : State} {n : Nat} : s.dup? n = none ↔ ∀ e ∈ s.dups, e.source ≠ n := by
  simp [State.dup?]

/-- What a source finds after an entry has been put (R87). -/
theorem dup?_putDup (e : DupEntry) (s : State) (n : Nat) :
    (putDup e s).dup? n = if n = e.source then some e else s.dup? n := find?_insertBy e s.dups n

/-- What a source finds after an entry has been removed (R90). -/
theorem dup?_removeDup (source : Nat) (s : State) (n : Nat) :
    (removeDup source s).dup? n = if n = source then none else s.dup? n := by
  split
  · rename_i h
    subst h
    exact dup?_none.mpr fun e he => by simpa using (List.mem_filter.mp he).2
  · rename_i h
    simp only [State.dup?, removeDup_dups, List.find?_filter]
    congr 1
    funext e
    by_cases he : e.source = n
    · simp [he, h]
    · simp [he]

/-- Removing the entry of a key from an ordered table takes one place. -/
theorem length_filter_key_ne {α : Type} {key : α → Nat} {l : List α} (h : ascending key l = true) {g : α} (hg : g ∈ l) :
    (l.filter fun e => key e != key g).length + 1 = l.length := by
  induction l with
  | nil => simp at hg
  | cons a l ih =>
    obtain ⟨hlt, hl⟩ := (ascending_cons a l).mp h
    rcases List.mem_cons.mp hg with rfl | hg
    · have hall : l.filter (fun e => key e != key g) = l :=
        List.filter_eq_self.mpr fun e he => by simpa using (Nat.ne_of_lt (hlt e he)).symm
      rw [List.filter_cons_of_neg (by simp), hall, List.length_cons]
    · rw [List.filter_cons_of_pos (by simpa using Nat.ne_of_lt (hlt g hg)), List.length_cons, ih hl hg, List.length_cons]

/-! ## Eviction -/

theorem evictedBefore_iff (e f : DupEntry) : evictedBefore e f = true ↔
    e.lastUse < f.lastUse ∨ (e.lastUse = f.lastUse ∧ e.source < f.source) := by
  simp [evictedBefore]

/-- The entry evicted is the longest unused, and of those the one of the lowest source (R90). -/
theorem evictionVictim_spec {l : List DupEntry} (h : l ≠ []) : ∃ g, evictionVictim l = some g ∧ g ∈ l
    ∧ ∀ f ∈ l, g.lastUse < f.lastUse ∨ (g.lastUse = f.lastUse ∧ g.source ≤ f.source) := by
  induction l with
  | nil => exact absurd rfl h
  | cons e l ih =>
    by_cases hl : l = []
    · subst hl
      exact ⟨e, rfl, by simp, by simp⟩
    · obtain ⟨g, hg, hmem, hle⟩ := ih hl
      simp only [evictionVictim, hg]
      split
      · rename_i hb
        have hb := (evictedBefore_iff g e).mp hb
        refine ⟨g, rfl, by simp [hmem], fun f hf => ?_⟩
        rcases List.mem_cons.mp hf with rfl | hf
        · omega
        · exact hle f hf
      · rename_i hb
        have hb := (evictedBefore_iff g e).not.mp hb
        refine ⟨e, rfl, by simp, fun f hf => ?_⟩
        rcases List.mem_cons.mp hf with rfl | hf
        · omega
        · have := hle f hf
          omega

/-- With fewer than 128 entries there is room. -/
theorem makeDupRoom_of_room {s : State} (h : s.dups.length < 128) : makeDupRoom s = s :=
  if_neg (Nat.not_le.mpr h)

/-- With 128 entries one is evicted and counted (R90). -/
theorem makeDupRoom_of_full {s : State} (h : 128 ≤ s.dups.length) : ∃ g ∈ s.dups,
    (∀ f ∈ s.dups, g.lastUse < f.lastUse ∨ (g.lastUse = f.lastUse ∧ g.source ≤ f.source))
      ∧ makeDupRoom s = count .dupEvicted (removeDup g.source s) := by
  obtain ⟨g, hg, hmem, hle⟩ := evictionVictim_spec (l := s.dups) fun e => by simp [e] at h
  refine ⟨g, hmem, hle, ?_⟩
  simp [makeDupRoom, Config.duplicateLimit, h, hg]

/-! ## Recording a final reply -/

/-- The entry that a final reply to a new telegram makes (R89). -/
def finalEntry (x : Side) (t : Telegram) (reply : FinalReply) (s : State) : DupEntry :=
  { source := t.src, seq := t.seq, arrivalSide := x, reply := reply, lastUse := s.now }

theorem recordFinal_of_some {s : State} {t : Telegram} (h : s.dup? t.src ≠ none) (x : Side) (reply : FinalReply) :
    recordFinal x t reply s = putDup (finalEntry x t reply s) s := by
  obtain ⟨e, he⟩ := Option.ne_none_iff_exists'.mp h
  simp [recordFinal, he, finalEntry]

theorem recordFinal_of_none {s : State} {t : Telegram} (h : s.dup? t.src = none) (x : Side) (reply : FinalReply) :
    recordFinal x t reply s = putDup (finalEntry x t reply s) (makeDupRoom s) := by
  simp [recordFinal, h, finalEntry]

theorem numbered_recordFinal (x : Side) (t : Telegram) (reply : FinalReply) (s : State) :
    (recordFinal x t reply s).numbered = s.numbered :=
  numbered_of_records (records_of_lines (recordFinal_lines x t reply s))

/-- Without an eviction the table takes the entry, new or in place of the source's own, and nothing else changes (R89). -/
theorem recordFinal_no_eviction {s : State} (hasc : ascending DupEntry.source s.dups = true) (x : Side) (t : Telegram)
    (reply : FinalReply) (h : s.dup? t.src ≠ none ∨ s.dups.length < 128) :
    recordFinal x t reply s = putDup (finalEntry x t reply s) s
      ∧ (recordFinal x t reply s).dups.length = s.dups.length + if s.dup? t.src = none then 1 else 0 := by
  cases hd : s.dup? t.src with
  | none =>
    have hlt := h.resolve_left (not_not.mpr hd)
    have e : recordFinal x t reply s = putDup (finalEntry x t reply s) s := by
      rw [recordFinal_of_none hd, makeDupRoom_of_room hlt]
    exact ⟨e, by rw [e]; exact length_insertBy_of_new _ (dup?_none.mp hd)⟩
  | some g =>
    have e := recordFinal_of_some (s := s) (t := t) (by simp [hd]) x reply
    obtain ⟨hmem, hsrc⟩ := dup?_mem hd
    exact ⟨e, by rw [e]; exact length_insertBy_of_mem _ hasc hmem hsrc⟩

/-- With 128 entries and none of the source, one is evicted for the new one (R90). -/
theorem recordFinal_eviction {s : State} (hasc : ascending DupEntry.source s.dups = true) (x : Side) (t : Telegram)
    (reply : FinalReply) (hd : s.dup? t.src = none) (hfull : 128 ≤ s.dups.length) : ∃ g ∈ s.dups,
    (∀ f ∈ s.dups, g.lastUse < f.lastUse ∨ (g.lastUse = f.lastUse ∧ g.source ≤ f.source))
      ∧ recordFinal x t reply s = putDup (finalEntry x t reply s) (count .dupEvicted (removeDup g.source s))
      ∧ (recordFinal x t reply s).dups.length = s.dups.length := by
  obtain ⟨g, hmem, hle, hroom⟩ := makeDupRoom_of_full hfull
  have e : recordFinal x t reply s = putDup (finalEntry x t reply s) (count .dupEvicted (removeDup g.source s)) := by
    rw [recordFinal_of_none hd, hroom]
  have hnew : ∀ f ∈ s.dups.filter (fun f => f.source != g.source), f.source ≠ t.src := fun f hf =>
    dup?_none.mp hd f (List.mem_of_mem_filter hf)
  refine ⟨g, hmem, hle, e, ?_⟩
  rw [e]
  exact (length_insertBy_of_new (finalEntry x t reply s) hnew).trans (length_filter_key_ne hasc hmem)

/-- The entry of a reply that has been recorded (R89). -/
theorem dup?_recordFinal_self (x : Side) (t : Telegram) (reply : FinalReply) (s : State) :
    (recordFinal x t reply s).dup? t.src = some (finalEntry x t reply s) := by
  by_cases hd : s.dup? t.src = none
  · rw [recordFinal_of_none hd, dup?_putDup]
    exact if_pos rfl
  · rw [recordFinal_of_some hd, dup?_putDup]
    exact if_pos rfl

/-! ## The statement -/

/-- A reply that the forwarding decision chooses: the stored one to a duplicate, and its own, recorded, to a new telegram
(R104, R88, R89). -/
theorem giveChosen_spec (x : Side) (t : Telegram) (reply : FinalReply) (s : State) :
    (∀ e, s.dup? t.src = some e → e.seq = t.seq → giveChosen x t reply s = (.final e.reply, renewDup x e s))
      ∧ (s.isNew t.src t.seq → giveChosen x t reply s = (.final reply, recordFinal x t reply s)) := by
  refine ⟨fun e he hseq => ?_, fun h => ?_⟩
  · rw [giveChosen, answerDuplicate_of_dup x he hseq]
  · rw [giveChosen, answerDuplicate_of_new x h, giveFinal]

/-- Settles O29: the chosen reply to a new telegram and to a duplicate, what the duplicate table keeps of it, and the
reply on the line. -/
theorem chosenReply : Obligations.ChosenReply := by
  refine ⟨⟨fun dt x bytes s t0 reply hready hn hrecv hcheck hconf => ?_, fun x t0 reply s hasc => ?_⟩,
    fun x t0 kind s => ?_⟩
  · intro s2 hchosen
    obtain ⟨hown, -, hparams, -⟩ := learned_keepsConfig s x dt t0.src
    obtain ⟨-, -, hi, -⟩ := dst_of_wellFormed hcheck
    have hs : (s2.port x).state ≠ .awaitReply := (learned_awaits_iff s x dt t0.src).not.mpr hrecv.not_awaiting
    have hn2 : s2.numbered = true := numbered_learned hn x dt t0.src
    have hd : dispose x t0 s2 = replyTo t0 (giveChosen x t0 reply s2) :=
      dispose_chosen hs hi (by rwa [← hown, ← hparams] at hchosen)
    obtain ⟨hdup, hnew⟩ := giveChosen_spec x t0 reply s2
    obtain ⟨t, he, -, hends⟩ := arrival_endsAs (dt := dt) hready hrecv hcheck hconf
    refine ⟨t, he, fun e hf hseq => ?_, fun h => ?_⟩
    · exact hends _ _ (hd.trans (by rw [hdup e hf hseq])) hn2
    · exact hends _ _ (hd.trans (by rw [hnew h])) ((numbered_recordFinal ..).trans hn2)
  · intro u
    refine ⟨dup?_recordFinal_self x t0 reply s, fun h => ?_, fun hd hfull => ?_, fun e he => ?_⟩
    · obtain ⟨hu, hlen⟩ := recordFinal_no_eviction hasc x t0 reply h
      refine ⟨fun n hne => ?_, ?_, hlen⟩ <;> rw [show u = putDup (finalEntry x t0 reply s) s from hu]
      · rw [dup?_putDup]
        exact if_neg hne
      · rfl
    · obtain ⟨g, hmem, hle, hu, hlen⟩ := recordFinal_eviction hasc x t0 reply hd hfull
      have hgs : g.source ≠ t0.src := dup?_none.mp hd g hmem
      have hfind : ∀ n, n ≠ t0.src → u.dup? n = if n = g.source then none else s.dup? n := fun n hne => by
        rw [show u = _ from hu, dup?_putDup]
        exact (if_neg hne).trans (dup?_removeDup g.source s n)
      refine ⟨g, hmem, hle, (hfind _ hgs).trans (if_pos rfl), fun n h1 h2 => (hfind n h1).trans (if_neg h2), ?_, hlen⟩
      rw [show u = _ from hu]
      rfl
    · intro w
      obtain ⟨hmem, hsrc⟩ := dup?_mem he
      have hfind : ∀ n, w.dup? n = if n = e.source then some { e with arrivalSide := x, lastUse := s.now } else s.dup? n :=
        dup?_putDup { e with arrivalSide := x, lastUse := s.now } s
      refine ⟨(hfind _).trans (if_pos hsrc.symm), fun n hne => (hfind n).trans (if_neg (hsrc ▸ hne)), rfl, ?_⟩
      exact length_insertBy_of_mem _ hasc hmem rfl
  · cases kind with
    | busy => rfl
    | final reply => cases reply <;> rfl

end Sys2Proof.Machine
end

section
/-! SUPPORT. What the end of several records leaves, one after another, each with one reason (R123, R124, R126). -/

namespace Sys2Proof.Machine

/-! ## The end of one record, by its origin -/

/-- Being told of a response's end, as one flag (R126, R167). -/
theorem tellResponseEnd_eq (n : Nat) (s : State) :
    tellResponseEnd n s = { s with restartDue := s.restartDue || s.restart.any (fun p => p.record == n) } := by
  unfold tellResponseEnd
  split
  · rename_i p h
    by_cases hp : p.record = n
    · have e : s.restart.any (fun p => p.record == n) = true := by simp [h, hp]
      rw [if_pos hp, e, Bool.or_true]
    · have e : s.restart.any (fun p => p.record == n) = false := by simp [h, hp]
      rw [if_neg hp, e, Bool.or_false]
  · rename_i h
    have e : s.restart.any (fun p => p.record == n) = false := by simp [h]
    rw [e, Bool.or_false]

/-- The Event Unit's account after its record has failed (R176). -/
theorem tellEventEnd_failed_eq (s : State) :
    tellEventEnd false s =
      { s with
        eventRecord := none
        repeatTimer := if s.eventRecord.isSome then .running (s.now + s.params.eventRepeat * Config.second)
          else s.repeatTimer } := by
  unfold tellEventEnd
  split
  · rename_i f h
    have e : s.eventRecord.isSome = true := by simp [h]
    rw [if_pos e]
    rfl
  · rename_i h
    have e : ¬ s.eventRecord.isSome = true := by simp [h]
    rw [if_neg e]
    cases s
    cases h
    rfl

section
variable {r : Record} (why : EndReason) (s : State)

theorem endUndelivered_forward (h : r.origin = .forward) :
    endUndelivered r why s = countBy .noticesCreated 1
      { s with
        records := s.records.map (fun q => if q.number = r.number then noticeRecord r why s else q)
        ownSeq := s.ownSeq + 1, free := s.free + (r.cells - 1)
        claimsDue := s.claimsDue || decide (1 < r.cells) } := by
  rw [endUndelivered, h]
  exact convertToNotice_spec r why s

theorem endUndelivered_response (h : r.origin = .relay .response) :
    endUndelivered r why s = countBy .responsesLost 1
      { releaseRecord r s with
        latched := s.latched ||| 0x8000#16
        restartDue := s.restartDue || s.restart.any (fun p => p.record == r.number) } := by
  rw [endUndelivered, h]
  exact tellResponseEnd_eq r.number _

theorem endUndelivered_notice (h : r.origin = .relay .notice) :
    endUndelivered r why s =
      countBy .noticesLost 1 { releaseRecord r s with latched := s.latched ||| 0x4000#16 } := by
  rw [endUndelivered, h]
  rfl

theorem endUndelivered_event (h : r.origin = .relay .event) :
    endUndelivered r why s =
      { releaseRecord r s with
        eventRecord := none
        repeatTimer := if s.eventRecord.isSome then .running (s.now + s.params.eventRepeat * Config.second)
          else s.repeatTimer } := by
  rw [endUndelivered, h]
  exact tellEventEnd_failed_eq (releaseRecord r s)

end

/-! ## The end of several records -/

/-- Several records end undelivered, one after another (log 7). -/
def endAll (why : EndReason) (rs : List Record) (s : State) : State := rs.foldl (fun s r => endUndelivered r why s) s

/-- How many of several records have this origin. -/
def endedOf (o : Origin) (rs : List Record) : Nat := (rs.filter (fun r => r.origin == o)).length

/-- What the end of several records counts (R124, R126). -/
def lossCount (rs : List Record) (c : Counter) : Nat :=
  if c = .noticesCreated then endedOf .forward rs else if c = .noticesLost then endedOf (.relay .notice) rs
  else if c = .responsesLost then endedOf (.relay .response) rs else 0

/-- What the end of several records latches (R126, R174). -/
def lossEvents (rs : List Record) : EventSet :=
  (if endedOf (.relay .response) rs = 0 then 0#16 else 0x8000#16)
    ||| (if endedOf (.relay .notice) rs = 0 then 0#16 else 0x4000#16)

theorem endedOf_cons (o : Origin) (r : Record) (rs : List Record) :
    endedOf o (r :: rs) = endedOf o [r] + endedOf o rs := by
  by_cases h : r.origin = o <;> simp [endedOf, h, Nat.add_comm]

theorem endedOf_singleton (o : Origin) (r : Record) : endedOf o [r] = if r.origin = o then 1 else 0 := by
  by_cases h : r.origin = o <;> simp [endedOf, h]

theorem lossCount_cons (r : Record) (rs : List Record) (c : Counter) :
    lossCount (r :: rs) c = lossCount [r] c + lossCount rs c := by
  simp only [lossCount, endedOf_cons _ r rs]
  split_ifs <;> rfl

theorem lossEvents_cons (r : Record) (rs : List Record) : lossEvents (r :: rs) = lossEvents [r] ||| lossEvents rs := by
  have hor : ∀ (m n : Nat) (b : EventSet), (if m + n = 0 then 0#16 else b)
      = (if m = 0 then 0#16 else b) ||| (if n = 0 then 0#16 else b) := fun m n b => by
    rcases m with _ | m <;> rcases n with _ | n <;> simp
  simp only [lossEvents, endedOf_cons _ r rs, hor]
  ac_rfl

/-- What is left, but for the records themselves, when the records `rs` have ended in `s`. -/
structure Ended (rs : List Record) (s t : State) : Prop where
  keeps : KeepsAtRecordEnd s t
  free : t.free = s.free + (rs.map (fun r => if r.origin = .forward then r.cells - 1 else r.cells)).sum
  ownSeq : t.ownSeq = s.ownSeq + BitVec.ofNat 4 (endedOf .forward rs)
  counters : ∀ c, t.counter c = saturatingAdd (s.counter c) (lossCount rs c)
  latched : t.latched = s.latched ||| lossEvents rs
  claimsDue : t.claimsDue = (s.claimsDue || rs.any (fun r => r.origin != .forward || decide (1 < r.cells)))
  restartDue : t.restartDue = (s.restartDue
    || rs.any (fun r => r.origin == .relay .response && s.restart.any (fun p => p.record == r.number)))
  reported : t.reported = s.reported
  eventRecord : t.eventRecord = if rs.any (fun r => r.origin == .relay .event) then none else s.eventRecord
  repeatTimer : t.repeatTimer = if rs.any (fun r => r.origin == .relay .event) && s.eventRecord.isSome
    then .running (s.now + s.params.eventRepeat * Config.second) else s.repeatTimer

theorem KeepsAtRecordEnd.refl (s : State) : KeepsAtRecordEnd s s := by
  constructor <;> simp [KeepsConfig, KeepsTables, KeepsPlainQueues, KeepsManagement, KeepsRest]

theorem KeepsAtRecordEnd.trans {s t u : State} (h : KeepsAtRecordEnd s t) (k : KeepsAtRecordEnd t u) :
    KeepsAtRecordEnd s u := by
  obtain ⟨h1, h2, h3, h4, h5, h6, h7, h8, h9, h10, h11, h12, h13⟩ := h
  obtain ⟨k1, k2, k3, k4, k5, k6, k7, k8, k9, k10, k11, k12, k13⟩ := k
  simp only [KeepsConfig, KeepsTables, KeepsPlainQueues, KeepsManagement, KeepsRest] at *
  constructor <;> simp_all [KeepsConfig, KeepsTables, KeepsPlainQueues, KeepsManagement, KeepsRest]

namespace Ended

theorem nil (s : State) : Ended [] s s := by
  constructor <;> simp [KeepsAtRecordEnd.refl, endedOf, lossCount, lossEvents, saturatingAdd_zero]

/-- One record, by its origin. -/
theorem one (r : Record) (why : EndReason) (s : State) : Ended [r] s (endUndelivered r why s) := by
  have hk := endUndelivered_keeps r why s
  have hcount : ∀ (c d : Counter) (v : State), (∀ d, v.counter d = s.counter d) →
      (countBy c 1 v).counter d = saturatingAdd (s.counter d) (if d = c then 1 else 0) := fun c d v hv => by
    rw [counter_countBy, hv]
    split
    · rename_i e
      rw [e]
    · rw [hv, saturatingAdd_zero]
  rcases ho : r.origin with _ | (_ | _ | _)
  · rw [endUndelivered_forward why s ho] at hk ⊢
    refine ⟨hk, ?_, ?_, fun c => (hcount _ c _ fun _ => rfl).trans ?_, ?_, ?_, ?_, ?_, ?_, ?_⟩ <;>
      simp [lossCount, lossEvents, endedOf_singleton, ho]
  · rw [endUndelivered_response why s ho] at hk ⊢
    refine ⟨hk, ?_, ?_, fun c => (hcount _ c _ fun _ => rfl).trans ?_, ?_, ?_, ?_, ?_, ?_, ?_⟩ <;>
      simp [lossCount, lossEvents, endedOf_singleton, ho, releaseRecord]
    split_ifs <;> simp_all
  · rw [endUndelivered_event why s ho] at hk ⊢
    refine ⟨hk, ?_, ?_, fun c => ?_, ?_, ?_, ?_, ?_, ?_, ?_⟩ <;>
      simp [lossCount, lossEvents, endedOf_singleton, ho, releaseRecord]
    exact (saturatingAdd_zero _).symm
  · rw [endUndelivered_notice why s ho] at hk ⊢
    refine ⟨hk, ?_, ?_, fun c => (hcount _ c _ fun _ => rfl).trans ?_, ?_, ?_, ?_, ?_, ?_, ?_⟩ <;>
      simp [lossCount, lossEvents, endedOf_singleton, ho, releaseRecord]
    split_ifs <;> simp_all

theorem cons {r : Record} {rs : List Record} {s t u : State} (h : Ended [r] s t) (k : Ended rs t u) :
    Ended (r :: rs) s u where
  keeps := h.keeps.trans k.keeps
  free := by simp [k.free, h.free, Nat.add_assoc]
  ownSeq := by rw [k.ownSeq, h.ownSeq, endedOf_cons _ r rs, BitVec.ofNat_add, BitVec.add_assoc]
  counters c := by rw [k.counters, h.counters, saturatingAdd_add, lossCount_cons r rs]
  latched := by rw [k.latched, h.latched, lossEvents_cons r rs, BitVec.or_assoc]
  claimsDue := by simp [k.claimsDue, h.claimsDue, Bool.or_assoc]
  restartDue := by simp [k.restartDue, h.restartDue, h.keeps.management.2.2, Bool.or_assoc]
  reported := k.reported.trans h.reported
  eventRecord := by
    rw [k.eventRecord, h.eventRecord]
    cases hr : r.origin == .relay .event <;> simp [hr]
  repeatTimer := by
    rw [k.repeatTimer, h.repeatTimer, h.eventRecord, h.keeps.now, h.keeps.config.2.2.1]
    cases hr : r.origin == .relay .event <;> simp [hr]

/-- Several records, one after another. -/
theorem all (why : EndReason) (rs : List Record) (s : State) : Ended rs s (endAll why rs s) := by
  induction rs generalizing s with
  | nil => exact nil s
  | cons r rs ih => exact (one r why s).cons (ih _)

end Ended

/-! ## The records that are left -/

theorem endAll_append (why : EndReason) (as bs : List Record) (s : State) :
    endAll why (as ++ bs) s = endAll why bs (endAll why as s) := List.foldl_append

/-- Records that end leave every other record under its number (R123). -/
theorem record?_endAll_other (why : EndReason) (rs : List Record) {s : State} (h : s.numbered = true) {n : Nat}
    (hn : ∀ r ∈ rs, r.number ≠ n) : (endAll why rs s).record? n = s.record? n := by
  induction rs generalizing s with
  | nil => rfl
  | cons r rs ih =>
    refine (ih (numbered_endUndelivered r why h) fun q hq => hn q (by simp [hq])).trans ?_
    exact record?_endUndelivered_other r why h (hn r (by simp)).symm

/-- The record of a number after its own record has ended: none, or the NOTICE (R124, R126). -/
theorem record?_endUndelivered_self (r : Record) (why : EndReason) {s : State} (hs : s.numbered = true)
    (hr : s.record? r.number = some r) : (endUndelivered r why s).record? r.number =
      if r.origin = .forward then some (noticeRecord r why s) else none := by
  unfold endUndelivered
  split
  · rename_i ho
    have h := record?_updateRecord s r.number r.number (fun _ => noticeRecord r why s) (fun _ _ => rfl)
    rw [if_pos rfl, hr] at h
    rw [if_pos ho]
    simpa only [State.record?, convertToNotice_records, Option.map_some] using h
  · rename_i ho
    have h := record?_removeRecord hs r.number r.number
    rw [if_pos rfl] at h
    rw [if_neg (by simp [ho])]
    simpa only [State.record?, failRelay_records] using h

/-- The record of a number after several records have ended, its own among them: none, or the NOTICE that it became in a
state in which the records that do not end were all held (R124, R126). -/
theorem record?_endAll_of_mem (why : EndReason) {rs : List Record} {s : State} (hs : s.numbered = true)
    (hasc : ascending Record.number rs = true) (hheld : ∀ r ∈ rs, s.record? r.number = some r) {r : Record} (hr : r ∈ rs) :
    ∃ v, KeepsAtRecordEnd s v ∧ (∀ n, (∀ q ∈ rs, q.number ≠ n) → v.record? n = s.record? n)
      ∧ (endAll why rs s).record? r.number = if r.origin = .forward then some (noticeRecord r why v) else none := by
  obtain ⟨as, bs, rfl⟩ := List.append_of_mem hr
  have hne : ∀ q ∈ as ++ bs, q.number ≠ r.number := fun q hq e => by
    have hmem : q ∈ as ++ r :: bs := by
      rcases List.mem_append.mp hq with h | h <;> simp [h]
    have hnd := nodup_of_ascending hasc
    have : r ∉ as ++ bs := (List.nodup_cons.mp (List.nodup_middle.mp hnd)).1
    exact this (ascending_unique hasc hmem hr e ▸ hq)
  have hv : ∀ n, (∀ q ∈ as, q.number ≠ n) → (endAll why as s).record? n = s.record? n := fun n =>
    record?_endAll_other why as hs
  have hnum : (endAll why as s).numbered = true := numbered_endAll why as hs
  refine ⟨endAll why as s, (Ended.all why as s).keeps, fun n h => hv n fun q hq => h q (by simp [hq]), ?_⟩
  rw [endAll_append, show endAll why (r :: bs) _ = endAll why bs (endUndelivered r why (endAll why as s)) from rfl,
    record?_endAll_other why bs (numbered_endUndelivered r why hnum) fun q hq => hne q (by simp [hq])]
  exact record?_endUndelivered_self r why hnum ((hv _ fun q hq => hne q (by simp [hq])).trans (hheld r hr))

/-- The NOTICE of a conversion for any reason but REJECTED, by its fields (R124, R125, R185). -/
theorem noticeOf_of_not_rejected {why : EndReason} (h : why ≠ .rejected) (r : Record) {s v : State}
    (hk : KeepsAtRecordEnd s v) : NoticeOf r why s (noticeRecord r why v) := by
  obtain ⟨hown, -, hparams, -⟩ := hk.config
  simp [NoticeOf, noticeRecord, noticePayload, h, beBytes, Config.millisecond, hown, hparams, hk.now]

end Sys2Proof.Machine
end

section
/-! SUPPORT. The segment reset of one side (R53), block by block, and the statements on it and on the SRESET's own passing. -/

namespace Sys2Proof.Machine

theorem KeepsTables.trans {s t u : State} (h : KeepsTables s t) (k : KeepsTables t u) : KeepsTables s u :=
  ⟨k.1.trans h.1, k.2.trans h.2⟩

theorem KeepsManagement.trans {s t u : State} (h : KeepsManagement s t) (k : KeepsManagement t u) :
    KeepsManagement s u := by
  unfold KeepsManagement at *
  simp_all

theorem KeepsRest.trans {s t u : State} (h : KeepsRest s t) (k : KeepsRest t u) : KeepsRest s u := by
  unfold KeepsRest at *
  simp_all

/-! ## The port's part -/

/-- A port at the segment reset of its side (R38). -/
def Port.atSegmentReset (p : Port) : Port := if p.state = .defer then { p.noChoice with state := .idle } else p

theorem setPort_same (x : Side) (s : State) : setPort x (s.port x) s = s := by cases x <;> rfl

/-- The port drops a choice held in DEFER, its plain queue is flushed, and the event is latched (R38, R84). -/
theorem segmentResetPort_eq (x : Side) (s : State) :
    segmentResetPort x s = latch (.segmentReset x) (countBy (.plainDropped x) (s.queue x).length
      { setQueue x [] (setPort x (s.port x).atSegmentReset s) with
        free := s.free + sumCells PlainEntry.cells (s.queue x)
        claimsDue := s.claimsDue || !(s.queue x).isEmpty }) := by
  have e : (if (s.port x).state = .defer then setPort x { (s.port x).noChoice with state := .idle } s else s)
      = setPort x (s.port x).atSegmentReset s := by
    unfold Port.atSegmentReset
    split
    · rfl
    · exact (setPort_same x s).symm
  unfold segmentResetPort
  dsimp only
  rw [e, flushQueue_eq]
  simp

/-- What the port's part leaves of the other blocks. -/
theorem segmentResetPort_keeps (x : Side) (s : State) :
    KeepsConfig s (segmentResetPort x s) ∧ KeepsTables s (segmentResetPort x s)
      ∧ KeepsManagement s (segmentResetPort x s) ∧ KeepsRest s (segmentResetPort x s) := by
  rw [segmentResetPort_eq]
  simp [KeepsConfig, KeepsTables, KeepsManagement, KeepsRest]

/-! ## The parts of the tables, the requests, the session and the events -/

/-- The requests from side X are removed with their cells, and a head among them gives its place up (R170). -/
theorem segmentResetRequests_eq (x : Side) (s : State) :
    segmentResetRequests x s =
      { s with
        requests := s.requests.filter (fun q => q.side != x)
        free := s.free + sumCells Request.cells (s.requests.filter (fun q => q.side == x))
        claimsDue := s.claimsDue || s.requests.any (fun q => q.side == x)
        respClaim := s.respClaim && !s.requests.head?.any (fun q => q.side == x)
        headDue := if s.requests.head?.any (fun q => q.side == x)
          then !(s.requests.filter (fun q => q.side != x)).isEmpty else s.headDue } := by
  unfold segmentResetRequests requestsKept
  by_cases h : ∃ q ∈ s.requests, q.side = x
  · have hgone : (s.requests.filter (fun q => q.side == x)).isEmpty = false := by
      obtain ⟨q, hq, hx⟩ := h
      exact List.isEmpty_eq_false_iff_exists_mem.mpr ⟨q, List.mem_filter.mpr ⟨hq, by simpa using hx⟩⟩
    have hany : s.requests.any (fun q => q.side == x) = true := by simpa using h
    simp only [hgone, hany, Bool.or_true]
    rfl
  · have hno : ∀ q ∈ s.requests, q.side ≠ x := fun q hq e => h ⟨q, hq, e⟩
    have hgone : s.requests.filter (fun q => q.side == x) = [] := by simpa using hno
    have hkept : s.requests.filter (fun q => q.side != x) = s.requests := by simpa using hno
    have hany : s.requests.any (fun q => q.side == x) = false := by simpa using hno
    have hhead : s.requests.head?.any (fun q => q.side == x) = false := by
      cases hl : s.requests with
      | nil => rfl
      | cons q l => simpa using hno q (by simp [hl])
    simp only [hgone, hkept, hany, hhead, Bool.or_false, Bool.not_false, Bool.and_true]
    rfl

/-- A session with holder side X lapses (R150). -/
theorem segmentResetSession_eq (x : Side) (s : State) :
    segmentResetSession x s =
      { s with
        session := if s.session.any (fun c => c.side == x) then none else s.session
        latched := s.latched ||| if s.session.any (fun c => c.side == x) then 0x0100#16 else 0#16 } := by
  unfold segmentResetSession
  split
  · rfl
  · rw [BitVec.or_zero]

/-- The reported set of event side X becomes empty (R182). -/
theorem segmentResetEvents_eq (x : Side) (s : State) :
    segmentResetEvents x s =
      { s with reported := if s.eventStation.any (fun e => e.2 == x) then 0#16 else s.reported } := by
  unfold segmentResetEvents
  split <;> rfl

/-- All blocks' parts of a segment reset but the ports' and the Delivery Engine's (R92, R170, R150, R182). -/
def resetBlocks (x : Side) (s : State) : State :=
  segmentResetEvents x (segmentResetSession x (segmentResetRequests x (segmentResetDups x s)))

theorem resetBlocks_eq (x : Side) (s : State) :
    resetBlocks x s =
      { s with
        dups := s.dups.filter (fun e => e.arrivalSide != x)
        requests := s.requests.filter (fun q => q.side != x)
        free := s.free + sumCells Request.cells (s.requests.filter (fun q => q.side == x))
        claimsDue := s.claimsDue || s.requests.any (fun q => q.side == x)
        respClaim := s.respClaim && !s.requests.head?.any (fun q => q.side == x)
        headDue := if s.requests.head?.any (fun q => q.side == x)
          then !(s.requests.filter (fun q => q.side != x)).isEmpty else s.headDue
        session := if s.session.any (fun c => c.side == x) then none else s.session
        latched := s.latched ||| if s.session.any (fun c => c.side == x) then 0x0100#16 else 0#16
        reported := if s.eventStation.any (fun e => e.2 == x) then 0#16 else s.reported } := by
  rw [resetBlocks, segmentResetEvents_eq, segmentResetSession_eq, segmentResetRequests_eq]
  rfl

/-! ## The whole -/

/-- The records that a segment reset of side X ends (R130). -/
def State.outOf (s : State) (x : Side) : List Record := s.records.filter (fun r => r.outSide == x)

/-- The state in which the ports' and the Delivery Engine's parts are done (R38, R130). -/
def resetLines (x : Side) (s : State) : State := endAll .segmentReset (s.outOf x) (segmentResetPort x s)

theorem segmentResetPort_records (x : Side) (s : State) : (segmentResetPort x s).records = s.records := by
  rw [segmentResetPort_eq]
  simp

theorem segmentReset_eq (x : Side) (s : State) : segmentReset x s = arbitrateBoth (resetBlocks x (resetLines x s)) := by
  rw [segmentReset, segmentResetRecords, segmentResetPort_records]
  rfl

/-- What the ends of the records leave, from the state that the port's part has left. -/
theorem ended_resetLines (x : Side) (s : State) : Ended (s.outOf x) (segmentResetPort x s) (resetLines x s) :=
  .all .segmentReset _ _

/-- A segment reset keeps the configuration (R53). -/
theorem segmentReset_keepsConfig (x : Side) (s : State) : KeepsConfig s (segmentReset x s) := by
  have h := (segmentResetPort_keeps x s).1.trans (ended_resetLines x s).keeps.config
  rw [segmentReset_eq, resetBlocks_eq]
  exact KeepsConfig.trans h (KeepsConfig.trans ⟨rfl, rfl, rfl, rfl, rfl, rfl⟩ (arbitrateBoth_keepsConfig _))

/-- The records after a segment reset of side X: those of the other side as they were, and of side X the NOTICEs of the
FORWARD records, newer than what has stayed (R130, R124, R126). -/
theorem record?_resetLines (x : Side) {s : State} (hn : s.numbered = true) :
    (∀ n, (∀ r, s.record? n = some r → r.outSide ≠ x) → (resetLines x s).record? n = s.record? n)
      ∧ ∀ n r, s.record? n = some r → r.outSide = x →
        if r.origin = .forward then ∃ q, (resetLines x s).record? n = some q ∧ NoticeOf r .segmentReset s q
          ∧ ∀ p ∈ s.records, p.outSide ≠ x → p.stamp < q.stamp
        else (resetLines x s).record? n = none := by
  have hs1 : ∀ n, (segmentResetPort x s).record? n = s.record? n := fun n => by
    rw [State.record?, segmentResetPort_records, State.record?]
  have hn1 : (segmentResetPort x s).numbered = true :=
    (numbered_of_records (segmentResetPort_records x s)).trans hn
  have hout : ∀ r, r ∈ s.outOf x ↔ r ∈ s.records ∧ r.outSide = x := fun r => by simp [State.outOf]
  have hmem : ∀ {r}, r ∈ s.outOf x → s.record? r.number = some r := fun h => record?_of_mem hn ((hout _).mp h).1
  refine ⟨fun n h => ?_, fun n r hr hx => ?_⟩
  · refine (record?_endAll_other .segmentReset _ hn1 fun r hr e => ?_).trans (hs1 n)
    exact h r (e ▸ hmem hr) ((hout r).mp hr).2
  · obtain ⟨hrm, rfl⟩ := record?_mem hr
    have hasc : ascending Record.number (s.outOf x) = true := ascending_filter _ ((numbered_iff s).mp hn).1
    obtain ⟨v, hk, hv, he⟩ := record?_endAll_of_mem .segmentReset hn1 hasc (fun q hq => (hs1 _).trans (hmem hq))
      ((hout r).mpr ⟨hrm, hx⟩)
    have hnotice : NoticeOf r .segmentReset s (noticeRecord r .segmentReset v) := by
      have h := noticeOf_of_not_rejected (why := .segmentReset) (by simp) r hk
      have hnow : (segmentResetPort x s).now = s.now := by
        rw [segmentResetPort_eq]
        cases x <;> rfl
      obtain ⟨⟨hown, -, hparams, -⟩, -⟩ := segmentResetPort_keeps x s
      simpa only [NoticeOf, hown, hparams, hnow] using h
    split
    · rename_i ho
      rw [if_pos ho] at he
      refine ⟨_, he, hnotice, fun p hp hpx => ?_⟩
      have hpv : v.record? p.number = some p := by
        rw [hv _ fun q hq e => ?_, hs1, record?_of_mem hn hp]
        have := ascending_unique ((numbered_iff s).mp hn).1 ((hout q).mp hq).1 hp e
        exact hpx (this ▸ ((hout q).mp hq).2)
      exact newStamp_spec (record?_mem hpv).1
    · rename_i ho
      rwa [if_neg ho] at he

/-- What a segment reset's ports' and Delivery Engine's parts leave of `s` in `w`, but for the records (R38, R84, R130). -/
structure LinesReset (x : Side) (s w : State) : Prop where
  config : KeepsConfig s w
  tables : KeepsTables s w
  management : KeepsManagement s w
  rest : KeepsRest s w
  now : w.now = s.now
  events : w.mask = s.mask ∧ w.eventStation = s.eventStation ∧ w.reported = s.reported
  flags : w.respClaim = s.respClaim ∧ w.eventClaim = s.eventClaim ∧ w.headDue = s.headDue
  port : w.port x = (s.port x).atSegmentReset
  portOther : w.port x.other = s.port x.other
  queue : w.queue x = []
  queueOther : w.queue x.other = s.queue x.other
  ownSeq : w.ownSeq = s.ownSeq + BitVec.ofNat 4 (endedOf .forward (s.outOf x))
  free : w.free = s.free + sumCells PlainEntry.cells (s.queue x)
    + ((s.outOf x).map (fun r => if r.origin = .forward then r.cells - 1 else r.cells)).sum
  counters : ∀ c, w.counter c = saturatingAdd (s.counter c)
    (if c = .plainDropped x then (s.queue x).length else lossCount (s.outOf x) c)
  latched : w.latched = s.latched ||| (if x = .a then 0x0040#16 else 0x0080#16) ||| lossEvents (s.outOf x)
  claimsDue : w.claimsDue = (s.claimsDue || !(s.queue x).isEmpty
    || (s.outOf x).any (fun r => r.origin != .forward || decide (1 < r.cells)))
  restartDue : w.restartDue = (s.restartDue
    || (s.outOf x).any (fun r => r.origin == .relay .response && s.restart.any (fun p => p.record == r.number)))
  eventRecord : w.eventRecord = if (s.outOf x).any (fun r => r.origin == .relay .event) then none else s.eventRecord
  repeatTimer : w.repeatTimer = if (s.outOf x).any (fun r => r.origin == .relay .event) && s.eventRecord.isSome
    then .running (s.now + s.params.eventRepeat * Config.second) else s.repeatTimer

theorem linesReset_resetLines (x : Side) (s : State) : LinesReset x s (resetLines x s) := by
  have E := ended_resetLines x s
  have k := E.keeps
  obtain ⟨hconfig, htables, hmanagement, hrest⟩ := segmentResetPort_keeps x s
  have e := segmentResetPort_eq x s
  generalize segmentResetPort x s = v at E k e hconfig htables hmanagement hrest
  have hport : ∀ y, v.port y = if y = x then (s.port x).atSegmentReset else s.port y := fun y => by
    rw [e, port_latch, port_countBy, ← port_setPort]
    exact (port_congr rfl rfl y).trans (port_setQueue ..)
  have hqueue : ∀ y, v.queue y = if y = x then [] else s.queue y := fun y => by
    rw [e, ← queue_setPort x y (s.port x).atSegmentReset s, ← queue_setQueue]
    exact queue_congr rfl rfl y
  have hcounter : ∀ c, v.counter c
      = saturatingAdd (s.counter c) (if c = .plainDropped x then (s.queue x).length else 0) := by
    intro c
    have hsame : ∀ d, ({ setQueue x [] (setPort x (s.port x).atSegmentReset s) with
        free := s.free + sumCells PlainEntry.cells (s.queue x)
        claimsDue := s.claimsDue || !(s.queue x).isEmpty } : State).counter d = s.counter d := fun d => by
      simp [State.counter]
    rw [e, show ∀ a w, (latch a w).counter c = w.counter c from fun _ _ => rfl, counter_countBy, hsame, hsame]
    split
    · rename_i h
      rw [h]
    · exact (saturatingAdd_zero _).symm
  exact
    { config := hconfig.trans k.config
      tables := htables.trans k.tables
      management := hmanagement.trans k.management
      rest := hrest.trans k.rest
      now := by rw [k.now, e]; simp
      events := by rw [k.mask, k.eventStation, E.reported, e]; simp
      flags := by rw [k.respClaim, k.eventClaim, k.headDue, e]; simp
      port := by rw [port_congr k.portA k.portB, hport, if_pos rfl]
      portOther := by rw [port_congr k.portA k.portB, hport, if_neg (Side.other_ne x)]
      queue := by rw [queue_congr k.queues.1 k.queues.2, hqueue, if_pos rfl]
      queueOther := by rw [queue_congr k.queues.1 k.queues.2, hqueue, if_neg (Side.other_ne x)]
      ownSeq := by rw [E.ownSeq, e]; simp
      free := by rw [E.free, e]; simp
      counters := fun c => by
        rw [E.counters, hcounter, saturatingAdd_add]
        split
        · rename_i h
          simp [h, lossCount]
        · rw [Nat.zero_add]
      latched := by
        rw [E.latched, e]
        cases x <;> simp [Event.bit, Event.index]
      claimsDue := by rw [E.claimsDue, e]; simp
      restartDue := by
        obtain ⟨-, -, hrestart⟩ := hmanagement
        rw [E.restartDue, hrestart, e]
        simp
      eventRecord := by rw [E.eventRecord, e]; simp
      repeatTimer := by
        obtain ⟨-, -, hparams, -⟩ := hconfig
        rw [E.repeatTimer, hparams, e]
        simp }

/-- The records after the ports' and the Delivery Engine's parts, record by record (R130). -/
structure RecordsReset (x : Side) (s w : State) : Prop where
  otherSide : ∀ r ∈ w.records, r.outSide ≠ x
  kept : ∀ n r, s.record? n = some r → r.outSide ≠ x → w.record? n = some r
  notice : ∀ n r, s.record? n = some r → r.outSide = x → r.origin = .forward → ∃ q, w.record? n = some q
    ∧ NoticeOf r .segmentReset s q ∧ ∀ p ∈ s.records, p.outSide ≠ x → p.stamp < q.stamp
  released : ∀ n r role, s.record? n = some r → r.outSide = x → r.origin = .relay role → w.record? n = none
  absent : ∀ n, s.record? n = none → w.record? n = none

theorem recordsReset_resetLines {x : Side} {s : State} (hn : s.numbered = true)
    (hsides : ∀ r ∈ s.records, r.origin = .forward → r.outSide = x → r.inSide = x.other) :
    RecordsReset x s (resetLines x s) := by
  obtain ⟨hother, hout⟩ := record?_resetLines x hn
  have hnw : (resetLines x s).numbered = true :=
    numbered_endAll .segmentReset _ ((numbered_of_records (segmentResetPort_records x s)).trans hn)
  generalize resetLines x s = w at hother hout hnw
  have notice : ∀ n r, s.record? n = some r → r.outSide = x → r.origin = .forward → ∃ q, w.record? n = some q
      ∧ NoticeOf r .segmentReset s q ∧ ∀ p ∈ s.records, p.outSide ≠ x → p.stamp < q.stamp := fun n r hr hx ho => by
    simpa [ho] using hout n r hr hx
  have released : ∀ n r role, s.record? n = some r → r.outSide = x → r.origin = .relay role → w.record? n = none :=
    fun n r role hr hx ho => by simpa [ho] using hout n r hr hx
  have absent : ∀ n, s.record? n = none → w.record? n = none := fun n h =>
    (hother n fun r hr => by simp [h] at hr).trans h
  have kept : ∀ n r, s.record? n = some r → r.outSide ≠ x → w.record? n = some r := fun n r hr hx =>
    (hother n fun q hq => Option.some.inj (hr.symm.trans hq) ▸ hx).trans hr
  refine ⟨fun r hr => ?_, kept, notice, released, absent⟩
  have hrw := record?_of_mem hnw hr
  cases hs : s.record? r.number with
  | none => simp [absent _ hs] at hrw
  | some p =>
    by_cases hx : p.outSide = x
    · cases ho : p.origin with
      | forward =>
        obtain ⟨q, hq, ⟨-, -, -, -, -, -, hqo, -⟩, -⟩ := notice _ p hs hx ho
        rw [← Option.some.inj (hq.symm.trans hrw), hqo, hsides p (record?_mem hs).1 ho hx]
        exact Side.other_ne x
      | relay role => simp [released _ p role hs hx ho] at hrw
    · rwa [← Option.some.inj ((kept _ p hs hx).symm.trans hrw)]

namespace LinesReset

variable {x : Side} {s w : State} (L : LinesReset x s w)
include L

/-- The Event Unit is told of the end of its record (R126, R176). -/
theorem event_ended (h : ∃ r ∈ s.outOf x, r.origin = .relay .event) (hrec : s.eventRecord ≠ none) :
    w.eventRecord = none ∧ w.repeatTimer = .running (s.now + s.params.eventRepeat * 1000000) := by
  have hany : (s.outOf x).any (fun r => r.origin == .relay .event) = true := by simpa using h
  have hboth := Bool.and_eq_true_iff.mpr ⟨hany, Option.isSome_iff_ne_none.mpr hrec⟩
  exact ⟨L.eventRecord.trans (if_pos hany), L.repeatTimer.trans (if_pos hboth)⟩

theorem event_kept (h : (∀ r ∈ s.outOf x, r.origin ≠ .relay .event) ∨ s.eventRecord = none) :
    w.eventRecord = s.eventRecord ∧ w.repeatTimer = s.repeatTimer := by
  rcases h with h | h
  · have hany : (s.outOf x).any (fun r => r.origin == .relay .event) = false := by simpa using h
    simp [L.eventRecord, L.repeatTimer, hany]
  · simp [L.eventRecord, L.repeatTimer, h]

/-- The restart whose response ends is due (R126, R167). -/
theorem restart_told
    (h : ∃ p, s.restart = some p ∧ ∃ r ∈ s.outOf x, r.origin = .relay .response ∧ r.number = p.record) :
    w.restartDue = true := by
  obtain ⟨p, hp, r, hr, ho, hn⟩ := h
  rw [L.restartDue, List.any_eq_true.mpr ⟨r, hr, by simp [ho, hp, hn]⟩, Bool.or_true]

theorem restart_not_told
    (h : ∀ p, s.restart = some p → ∀ r ∈ s.outOf x, r.origin = .relay .response → r.number ≠ p.record) :
    w.restartDue = s.restartDue := by
  rw [L.restartDue, List.any_eq_false.mpr, Bool.or_false]
  intro r hr ht
  simp only [Bool.and_eq_true, beq_iff_eq, Option.any_eq_true] at ht
  obtain ⟨ho, p, hp, hn⟩ := ht
  exact h p hp r hr ho hn.symm

end LinesReset
end Sys2Proof.Machine

namespace Sys2Proof.Settled

open Sys2Proof.Machine

/-- Settles O33: each block's part of a segment reset, after which the arbiters run. -/
theorem segmentReset : Obligations.SegmentReset := by
  intro x s hn hsides out ended lapses headGone
  have R := recordsReset_resetLines hn hsides
  have L := linesReset_resetLines x s
  refine ⟨_, segmentReset_eq x s, ?_⟩
  generalize resetLines x s = w at R L
  obtain ⟨hstations, hdups⟩ := L.tables
  obtain ⟨hrequests, hsession, hrestart⟩ := L.management
  obtain ⟨hmask, hstation, hreported⟩ := L.events
  obtain ⟨hresp, hevent, hhead⟩ := L.flags
  rw [resetBlocks_eq, hdups, hrequests, hsession, hresp, hhead, hstation, hreported]
  refine ⟨fun h => L.port.trans (if_pos h), fun h => L.port.trans (if_neg h), L.portOther, R.otherSide, R.kept, R.notice,
    R.released, R.absent, L.ownSeq, L.queue, L.queueOther, rfl, rfl, ?_, L.counters, ?_, fun e he => ?_, fun he => ?_,
    L.event_ended, L.event_kept, hevent, rfl, hmask, rfl, rfl, rfl, ?_, hrestart, L.restart_told, L.restart_not_told,
    hstations, L.config, L.rest, L.now⟩
  · exact congrArg (· + sumCells Request.cells (s.requests.filter fun q => q.side == x)) L.free
  · refine (congrArg (· ||| if lapses then 0x0100#16 else 0#16) L.latched).trans ?_
    rw [lossEvents, ← BitVec.or_assoc]
    rfl
  · exact if_pos (by simp [he])
  · refine if_neg fun h => ?_
    simp only [Option.any_eq_true, beq_iff_eq] at h
    obtain ⟨⟨e, y⟩, hs, rfl⟩ := h
    exact he e hs
  · exact congrArg (· || s.requests.any fun q => q.side == x) L.claimsDue

/-- Settles O32: the segment reset, and the SRESET's own hand-off when it is passed. -/
theorem sresetArrival : Obligations.SresetArrival := by
  refine ⟨fun dt x bytes s t0 hready hn hrecv hcheck hk hown hconf => ?_, fun x t0 s => plainHandOff_cases x t0 s⟩
  intro s2
  obtain ⟨-, -, -, hdst⟩ := dst_of_wellFormed hcheck
  have hconfig := (learned_keepsConfig s x dt t0.src).trans (segmentReset_keepsConfig x _)
  obtain ⟨-, -, hparams, -⟩ := hconfig
  have hs : ((s.learned x dt t0.src).port x).state ≠ .awaitReply :=
    (learned_awaits_iff s x dt t0.src).not.mpr hrecv.not_awaiting
  have hs2 : (s2.port x).state ≠ .awaitReply := (coarse_awaitReply.segmentReset x x _).not.mpr hs
  have hn2 : s2.numbered = true := numbered_segmentReset x (numbered_learned hn x dt t0.src)
  have hd : dispose x t0 (s.learned x dt t0.src)
      = (if s.params.mode = .forward ∧ s.params.sresetPass = true then plainHandOff x t0 s2 else s2, none) := by
    rw [dispose_sreset hs (by rw [hk]; rfl) (by rw [hdst hk, (learned_keepsConfig s x dt t0.src).1]; exact hown.symm) hk,
      Machine.sresetArrival, ← hparams]
  obtain ⟨t, he, hends, -⟩ := arrival_endsAs (dt := dt) hready hrecv hcheck hconf
  refine ⟨t, he, fun hm hp => ?_, fun h => ?_⟩
  · rw [if_pos ⟨hm, hp⟩] at hd
    exact hends _ _ hd (port_plainHandOff x t0 s2 ▸ hs2) rfl (numbered_plainHandOff x t0 hn2)
  · rw [if_neg fun ⟨hm, hp⟩ => by simp [hm, hp] at h] at hd
    exact hends _ _ hd hs2 rfl hn2

end Sys2Proof.Settled
end

section
/-! SUPPORT. The timers of the Station Table (R69, R70) and of the duplicate table (R91), and the statement on them. -/

namespace Sys2Proof.Machine

/-! ## AGING_TICK -/

theorem exec_agingTick {s : State} (h : s.ready = true) : exec .agingTick s = .next (agingTicks s) :=
  fromTimer_ready h _

theorem ageEntry_loaded {e : StationEntry} (h : e.origin = .loaded) (limit : Nat) : ageEntry limit e = some e := by
  simp [ageEntry, h]

theorem ageEntry_learned {e : StationEntry} {idle : Nat} (h : e.origin = .learned idle) (limit : Nat) :
    ageEntry limit e = if limit ≤ idle + 1 then none else some { e with origin := .learned (idle + 1) } := by
  simp [ageEntry, h]

/-- The tick moves the clock and its own next moment and ages every entry of the table; nothing else changes (R69). -/
theorem agingTicks_of_ageEntry {s : State} {age : StationEntry → Option StationEntry}
    (h : ∀ e, ageEntry s.params.ageLimit e = age e) :
    agingTicks s = { s with
      now := max s.now s.nextTick
      nextTick := s.nextTick + 1000000
      stations := s.stations.filterMap age } := by
  obtain rfl : ageEntry s.params.ageLimit = age := funext h
  rfl

/-! ## DUP_HOLD_EXPIRY -/

theorem exec_dupHoldExpiry {s : State} (h : s.ready = true) (source : Nat) :
    exec (.dupHoldExpiry source) s = .next (dupHoldEnds source s) :=
  fromTimer_ready h _

theorem dupHoldEnds_of_dup {s : State} {source : Nat} {e : DupEntry} (h : s.dup? source = some e) :
    dupHoldEnds source s = removeDup source (reach (e.lastUse + s.params.dupHold * 1000) s) := by
  simp [dupHoldEnds, h, Config.millisecond]

end Sys2Proof.Machine

namespace Sys2Proof.Settled

open Sys2Proof.Machine

/-- Settles O39: the aging tick by the origin of each entry, and the removal of the entry whose hold ends. -/
theorem tableTimers : Obligations.TableTimers := by
  refine ⟨fun s hready => ?_, fun s source e hready hdup => ?_⟩
  · refine (exec_agingTick hready).trans (congrArg Host.Outcome.next (agingTicks_of_ageEntry fun e => ?_))
    cases horigin : e.origin with
    | loaded => exact ageEntry_loaded horigin _
    | learned idle => exact ageEntry_learned horigin _
  · exact (exec_dupHoldExpiry hready source).trans (congrArg Host.Outcome.next (dupHoldEnds_of_dup hdup))

end Sys2Proof.Settled
end

section
/-! SUPPORT. The cells, the descriptors and the commands that wait, through the shared operations and every command (R74, R79,
R96, R106). -/

namespace Sys2Proof.Machine

/-! ## Sums over a table -/

section
variable {α : Type} {key : α → Nat} {a : α} {l : List α}

/-- The two parts of a split list hold what the list holds. -/
theorem sumCells_filter_add (f : α → Nat) (p : α → Bool) (l : List α) :
    sumCells f (l.filter p) + sumCells f (l.filter fun b => !p b) = sumCells f l := by
  induction l with
  | nil => rfl
  | cons b l ih =>
    simp only [sumCells] at ih ⊢
    cases hp : p b <;> simp [hp] <;> omega

/-- Changing one entry of a table in order changes its part of the sum. -/
theorem sumCells_map_key (f : α → Nat) (g : α → α) (h : ascending key l = true) (ha : a ∈ l) :
    sumCells f (l.map fun b => if key b = key a then g b else b) + f a = sumCells f l + f (g a) := by
  induction l with
  | nil => simp at ha
  | cons b l ih =>
    obtain ⟨hb, hl⟩ := (ascending_cons b l).mp h
    simp only [sumCells, List.map_cons, List.sum_cons] at ih ⊢
    rcases List.mem_cons.mp ha with rfl | ha
    · have hsame : (l.map fun c => if key c = key a then g c else c) = l :=
        (List.map_congr_left fun c hc => if_neg (hb c hc).ne').trans (List.map_id _)
      rw [hsame, if_pos rfl]
      omega
    · have := ih hl ha
      rw [if_neg (hb a ha).ne]
      omega

/-- Removing one entry of a table in order takes its part from the sum. -/
theorem sumCells_filter_key_ne (f : α → Nat) (h : ascending key l = true) (ha : a ∈ l) :
    sumCells f (l.filter fun b => key b != key a) + f a = sumCells f l := by
  induction l with
  | nil => simp at ha
  | cons b l ih =>
    obtain ⟨hb, hl⟩ := (ascending_cons b l).mp h
    simp only [sumCells] at ih ⊢
    rcases List.mem_cons.mp ha with rfl | ha
    · have hsame : (l.filter fun c => key c != key a) = l :=
        List.filter_eq_self.mpr fun c hc => by simpa using (hb c hc).ne'
      simp only [List.filter_cons, bne_self_eq_false, Bool.false_eq_true, if_false, hsame, List.map_cons, List.sum_cons]
      omega
    · have hne : (key b != key a) = true := by simpa using (hb a ha).ne
      have := ih hl ha
      simp only [List.filter_cons, hne, if_true, List.map_cons, List.sum_cons]
      omega

end

/-! ## What the laws speak of -/

/-- 1 for a FORWARD record, 0 for a RELAY record: what a record adds to the FORWARD count. -/
def Record.forwards (r : Record) : Nat := if r.origin = .forward then 1 else 0

theorem Record.forwards_le_one (r : Record) : r.forwards ≤ 1 := by
  unfold Record.forwards
  split <;> omega

theorem forwardCount_eq_sum (s : State) : s.forwardCount = sumCells Record.forwards s.records := by
  unfold State.forwardCount
  induction s.records with
  | nil => rfl
  | cons r l ih =>
    simp only [sumCells, List.map_cons, List.sum_cons] at ih ⊢
    by_cases h : r.origin = .forward <;> simp [Record.forwards, h, ih, Nat.add_comm]

/-- No more FORWARD records are held than records. -/
theorem sum_forwards_le_length (l : List Record) : sumCells Record.forwards l ≤ l.length := by
  induction l with
  | nil => rfl
  | cons r l ih =>
    have := r.forwards_le_one
    simp only [sumCells, List.map_cons, List.sum_cons, List.length_cons] at ih ⊢
    omega

/-- All that the laws of the stock speak of. -/
def State.stock (s : State) : Nat × List Record × List PlainEntry × List PlainEntry × List Request × List Instr :=
  (s.free, s.records, s.queueA, s.queueB, s.requests, s.pending)

/-- The commands that wait are these; of a state that is to be `pooled`, the free count and the cells held make 384; of
one that is to be `bounded`, at most 60 descriptors hold FORWARD records. Either goes over records with descriptors of
their own (R74, R96, R106). -/
structure StockLaws (pooled bounded : Prop) (waiting : List Instr) (s : State) : Prop where
  numbered : pooled ∨ bounded → s.numbered = true
  pool : pooled → s.free + s.heldCells = 384
  bound : bounded → sumCells Record.forwards s.records ≤ 60
  pending : s.pending = waiting

theorem balanced_iff (s : State) : s.balanced = true ↔ StockLaws True False s.pending s := by
  simp only [State.balanced, Bool.and_eq_true, beq_iff_eq]
  exact ⟨fun h => ⟨fun _ => h.1, fun _ => h.2, nofun, rfl⟩, fun h => ⟨h.numbered (.inl trivial), h.pool trivial⟩⟩

theorem forwardBounded_iff (s : State) : s.forwardBounded = true ↔ StockLaws False True s.pending s := by
  simp only [State.forwardBounded, Bool.and_eq_true, decide_eq_true_eq, forwardCount_eq_sum]
  exact ⟨fun h => ⟨fun _ => h.1, nofun, fun _ => h.2, rfl⟩, fun h => ⟨h.numbered (.inr trivial), h.bound trivial⟩⟩

/-- A record of this number, with these cells and this origin, is held. -/
def State.carries (s : State) (r : Record) : Prop :=
  ∃ q ∈ s.records, q.number = r.number ∧ q.payload = r.payload ∧ q.origin = r.origin

theorem carries_of_mem {s : State} {r : Record} (h : r ∈ s.records) : s.carries r := ⟨r, h, rfl, rfl, rfl⟩

theorem carries_of_record? {s : State} {n : Nat} {r : Record} (h : s.record? n = some r) : s.carries r :=
  carries_of_mem (record?_mem h).1

/-- The cells held, by the two sides (R74). -/
theorem heldCells_eq (x : Side) (s : State) : s.heldCells = sumCells Record.cells s.records
    + sumCells PlainEntry.cells (s.queue x) + sumCells PlainEntry.cells (s.queue x.other) + sumCells Request.cells s.requests := by
  cases x <;> simp only [State.heldCells, State.queue, Side.other]
  omega

/-- A payload needs a cell at least (R75). -/
theorem one_le_cellsFor (n : Nat) : 1 ≤ cellsFor n := by
  unfold cellsFor
  split_ifs <;> omega

/-- A NOTICE needs one cell (R75, R125). -/
theorem noticeRecord_cells (r : Record) (why : EndReason) (s : State) : (noticeRecord r why s).cells = 1 := by
  have h : (noticePayload r why).length ≤ 8 := by
    unfold noticePayload
    split
    · cases r.rejectReason <;> simp [beBytes]
    · simp [beBytes]
  exact if_pos (h.trans (by decide))

/-- A delivery frees the record's cells (R79, R114). -/
theorem deliver_free (r : Record) (s : State) : (deliver r s).free = s.free + r.cells := by
  unfold deliver releaseRecord
  split
  · rfl
  · rw [tellResponseEnd_eq]
    rfl
  · rfl
  · obtain ⟨a, b, c, h, -⟩ := tellEventEnd_spec true (releaseCells r.cells (removeRecord r.number s))
    rw [h]
    rfl

namespace StockLaws

variable {pooled bounded : Prop} {waiting : List Instr} {s t : State} {x : Side}

/-- A change of other blocks keeps the laws of the stock. -/
theorem of_stock (h : StockLaws pooled bounded waiting s) (e : t.stock = s.stock) : StockLaws pooled bounded waiting t := by
  simp only [State.stock, Prod.mk.injEq] at e
  obtain ⟨h1, h2, h3, h4⟩ := h
  obtain ⟨e1, e2, e3, e4, e5, e6⟩ := e
  refine ⟨fun hf => numbered_of_records e2 ▸ h1 hf, fun hp => ?_, e2 ▸ h3, e6 ▸ h4⟩
  rw [← h2 hp]
  simp only [State.heldCells, e1, e2, e3, e4, e5]

theorem elapse (h : StockLaws pooled bounded waiting s) (dt : Nat) : StockLaws pooled bounded waiting (elapse dt s) :=
  h.of_stock rfl
theorem reach (h : StockLaws pooled bounded waiting s) (m : Nat) : StockLaws pooled bounded waiting (reach m s) :=
  h.of_stock rfl
theorem latch (h : StockLaws pooled bounded waiting s) (e : Event) : StockLaws pooled bounded waiting (latch e s) :=
  h.of_stock rfl
theorem count (h : StockLaws pooled bounded waiting s) (c : Counter) : StockLaws pooled bounded waiting (count c s) :=
  h.of_stock rfl
theorem setPort (h : StockLaws pooled bounded waiting s) (x : Side) (p : Port) :
    StockLaws pooled bounded waiting (setPort x p s) :=
  h.of_stock (by cases x <;> rfl)

/-- Cells pass between the free count and their holders, and no FORWARD record comes but below the bound. -/
theorem exchange (h : StockLaws pooled bounded waiting s) (hp : t.pending = s.pending)
    (hn : pooled ∨ bounded → t.numbered = true) (hc : pooled → t.free + t.heldCells = s.free + s.heldCells)
    (hf : bounded → sumCells Record.forwards t.records ≤ sumCells Record.forwards s.records
      ∨ sumCells Record.forwards t.records ≤ 60) : StockLaws pooled bounded waiting t where
  numbered := hn
  pool hb := (hc hb).trans (h.pool hb)
  bound hb := (hf hb).elim (fun hl => hl.trans (h.bound hb)) id
  pending := hp.trans h.pending

/-- Cells pass between the free count and the records. -/
theorem exchange_records (h : StockLaws pooled bounded waiting s)
    (hk : KeepsPlainQueues s t ∧ t.requests = s.requests ∧ t.pending = s.pending)
    (hr : pooled ∨ bounded → t.numbered = true
      ∧ t.free + sumCells Record.cells t.records = s.free + sumCells Record.cells s.records
      ∧ (sumCells Record.forwards t.records ≤ sumCells Record.forwards s.records
        ∨ sumCells Record.forwards t.records ≤ 60)) : StockLaws pooled bounded waiting t := by
  obtain ⟨⟨hqa, hqb⟩, hq, hp⟩ := hk
  refine h.exchange hp (fun hf => (hr hf).1) (fun hf => ?_) fun hf => (hr (.inr hf)).2.2
  have := (hr (.inl hf)).2.1
  simp only [State.heldCells, hqa, hqb, hq]
  omega

/-- Cells pass between the free count and the plain queue of one side. -/
theorem exchange_queue (h : StockLaws pooled bounded waiting s) (x : Side) {q : List PlainEntry} {free : Nat}
    (ht : t.stock = ({ setQueue x q s with free := free } : State).stock)
    (hc : free + sumCells PlainEntry.cells q = s.free + sumCells PlainEntry.cells (s.queue x)) :
    StockLaws pooled bounded waiting t := by
  refine of_stock (h.exchange (t := { setQueue x q s with free := free }) ?_ (fun hb => ?_) (fun _ => ?_) fun _ => ?_) ht
  · exact setQueue_pending x q s
  · exact (numbered_of_records (setQueue_records x q s)).trans (h.numbered hb)
  · rw [heldCells_eq x s]
    cases x <;> simp only [State.heldCells, setQueue, State.queue, Side.other] at hc ⊢ <;> omega
  · exact .inl (congrArg (sumCells Record.forwards) (setQueue_records x q s)).le

/-- Cells pass between the free count and the requests. -/
theorem exchange_requests (h : StockLaws pooled bounded waiting s) (hr : t.records = s.records)
    (hk : KeepsPlainQueues s t) (hp : t.pending = s.pending)
    (hc : t.free + sumCells Request.cells t.requests = s.free + sumCells Request.cells s.requests) :
    StockLaws pooled bounded waiting t := by
  refine h.exchange hp (fun hf => numbered_of_records hr ▸ h.numbered hf) (fun _ => ?_) fun _ => .inl (hr ▸ le_rfl)
  simp only [State.heldCells, hr, hk.1, hk.2]
  omega

/-! ## Records -/

/-- A change of records that keeps their numbers, cells and origins. -/
theorem updateRecord (h : StockLaws pooled bounded waiting s) {n : Nat} {f : Record → Record}
    (hn : ∀ q, q.number = n → (f q).number = n)
    (hf : pooled ∨ bounded → ∀ q ∈ s.records, q.number = n → (f q).payload = q.payload ∧ (f q).origin = q.origin) :
    StockLaws pooled bounded waiting (updateRecord n f s) := by
  refine h.exchange_records ⟨⟨rfl, rfl⟩, rfl, rfl⟩ fun hb => ?_
  have hsum : ∀ w : Record → Nat, (∀ q q' : Record, q'.payload = q.payload → q'.origin = q.origin → w q' = w q) →
      sumCells w (Machine.updateRecord n f s).records = sumCells w s.records := fun w hw => by
    rw [updateRecord_records, sumCells, sumCells, List.map_map]
    refine congrArg List.sum (List.map_congr_left fun q hq => ?_)
    simp only [Function.comp]
    split
    · rename_i e
      exact hw _ _ (hf hb q hq e).1 (hf hb q hq e).2
    · rfl
  refine ⟨numbered_updateRecord n f hn (h.numbered hb), ?_, .inl ?_⟩
  · rw [hsum Record.cells fun _ _ hp _ => by simp only [Record.cells, hp], updateRecord_free]
  · rw [hsum Record.forwards fun _ _ _ ho => by simp only [Record.forwards, ho]]

/-- The record of a number is put as given, with the cells and the origin it had. -/
theorem replaceRecord (h : StockLaws pooled bounded waiting s) {r : Record} (hr : pooled ∨ bounded → s.carries r) :
    StockLaws pooled bounded waiting (Machine.updateRecord r.number (fun _ => r) s) := by
  refine h.updateRecord (fun _ _ => rfl) fun hb q hq hn => ?_
  obtain ⟨p, hp, hpn, hpp, hpo⟩ := hr hb
  obtain rfl := ascending_unique ((numbered_iff s).mp (h.numbered hb)).1 hq hp (hn.trans hpn.symm)
  exact ⟨hpp.symm, hpo.symm⟩

/-- A record leaves its descriptor, and its cells become free (R79, R106). -/
theorem release (h : StockLaws pooled bounded waiting s) {r : Record} (hr : pooled ∨ bounded → s.carries r)
    (hk : KeepsPlainQueues s t ∧ t.requests = s.requests ∧ t.pending = s.pending)
    (he : t.records = (removeRecord r.number s).records) (hfree : t.free = s.free + r.cells) :
    StockLaws pooled bounded waiting t := by
  refine h.exchange_records hk fun hb => ?_
  obtain ⟨q, hq, hqn, hqp, -⟩ := hr hb
  have hsum := fun w : Record → Nat =>
    sumCells_filter_key_ne w ((numbered_iff s).mp (h.numbered hb)).1 hq
  have hcells : q.cells = r.cells := by simp only [Record.cells, hqp]
  have h1 := hsum Record.cells
  have h2 := hsum Record.forwards
  rw [hqn] at h1 h2
  rw [he, removeRecord_records]
  refine ⟨(numbered_of_records he).trans (numbered_removeRecord _ (h.numbered hb)), ?_, .inl (by omega)⟩
  omega

/-- A FORWARD record becomes its NOTICE, and its cells but one become free (R124, R80). -/
theorem convertToNotice (h : StockLaws pooled bounded waiting s) {r : Record} (hr : pooled ∨ bounded → s.carries r)
    (why : EndReason) : StockLaws pooled bounded waiting (convertToNotice r why s) := by
  have hk := convertToNotice_keeps r why s
  refine h.exchange_records ⟨hk.queues, hk.management.1, hk.rest.2.2.2⟩ fun hb => ?_
  obtain ⟨q, hq, hqn, hqp, -⟩ := hr hb
  have hsum := fun w : Record → Nat =>
    sumCells_map_key w (fun _ => noticeRecord r why s) ((numbered_iff s).mp (h.numbered hb)).1 hq
  have hcells : q.cells = r.cells := by simp only [Record.cells, hqp]
  have hone : 1 ≤ r.cells := one_le_cellsFor _
  have hfree : (Machine.convertToNotice r why s).free = s.free + (r.cells - 1) := by
    rw [convertToNotice_spec]
    rfl
  have h1 := hsum Record.cells
  have h2 := hsum Record.forwards
  rw [hqn] at h1 h2
  rw [noticeRecord_cells] at h1
  have hzero : (noticeRecord r why s).forwards = 0 := rfl
  rw [convertToNotice_records, updateRecord_records]
  refine ⟨?_, by omega, .inl (by omega)⟩
  exact (numbered_of_records (convertToNotice_records r why s)).trans
    (numbered_updateRecord _ _ (fun _ _ => rfl) (h.numbered hb))

/-- However a record ends undelivered (R123). -/
theorem endUndelivered (h : StockLaws pooled bounded waiting s) {r : Record} (hr : pooled ∨ bounded → s.carries r)
    (why : EndReason) : StockLaws pooled bounded waiting (endUndelivered r why s) := by
  cases ho : r.origin with
  | forward =>
    rw [Machine.endUndelivered, ho]
    exact h.convertToNotice hr why
  | relay role =>
    have hk := endUndelivered_keeps r why s
    refine h.release hr ⟨hk.queues, hk.management.1, hk.rest.2.2.2⟩ ?_ ?_
    · rw [Machine.endUndelivered, ho]
      exact failRelay_records r role s
    · simpa [ho] using (Ended.one r why s).free

theorem deliver (h : StockLaws pooled bounded waiting s) {r : Record} (hr : pooled ∨ bounded → s.carries r) :
    StockLaws pooled bounded waiting (deliver r s) := by
  have hk := deliver_keeps r s
  exact h.release hr ⟨hk.queues, hk.management.1, hk.rest.2.2.2⟩ (deliver_records r s) (deliver_free r s)

/-- A record waits for its next attempt (R119). -/
theorem holdRecord (h : StockLaws pooled bounded waiting s) {r : Record} (hr : pooled ∨ bounded → s.carries r) (ms : Nat) :
    StockLaws pooled bounded waiting (holdRecord r ms s) :=
  h.replaceRecord (r := { r with state := .waiting (s.now + ms * Config.millisecond) }) hr

/-- A new record takes its cells and a free descriptor; a FORWARD one leaves the RELAY records four (R76, R96, R106). -/
theorem insertRecord (h : StockLaws pooled bounded waiting s) {r : Record} (hd : 1 ≤ s.freeDescriptors)
    (hn : r.number = s.lowestFree) (hc : r.cells ≤ s.free) (ho : r.origin = .forward → 5 ≤ s.freeDescriptors) :
    StockLaws pooled bounded waiting (insertRecord r (claimCells r.cells s)) := by
  obtain ⟨h64, hfree⟩ := lowestFree_spec hd
  rw [← hn] at h64 hfree
  have h1 := sumCells_insertBy (key := Record.number) Record.cells r hfree
  have h2 := sumCells_insertBy (key := Record.number) Record.forwards r hfree
  have hclaim : (claimCells r.cells s).free = s.free - r.cells := rfl
  refine h.exchange_records ⟨⟨rfl, rfl⟩, rfl, rfl⟩ fun hb => ⟨numbered_insertRecord r h64 (h.numbered hb), ?_, ?_⟩ <;>
    rw [insertRecord_records, claimCells_records]
  · rw [insertRecord_free]
    omega
  · by_cases hf : r.origin = .forward
    · have hroom := ho hf
      have hlen := sum_forwards_le_length s.records
      have hone := r.forwards_le_one
      simp only [State.freeDescriptors, Config.descriptors] at hroom
      exact .inr (by omega)
    · have hzero : r.forwards = 0 := if_neg hf
      exact .inl (by omega)

/-- A new RELAY record, its cells claimed (R109). -/
theorem placeRelayRecord (h : StockLaws pooled bounded waiting s) (hd : 1 ≤ s.freeDescriptors) (role : Role)
    (destination : Nat) (side : Side) {payload : List Byte} (hc : cellsFor payload.length ≤ s.free) :
    StockLaws pooled bounded waiting
      (placeRelayRecord role destination side payload (claimCells (cellsFor payload.length) s)) := by
  have hi := h.insertRecord
    (r := newRelayRecord role destination side payload (claimCells (cellsFor payload.length) s)) hd rfl hc nofun
  exact hi.of_stock rfl

/-! ## The arbiter and the ends of attempts -/

theorem arbitrate (h : StockLaws pooled bounded waiting s) (x : Side) : StockLaws pooled bounded waiting (arbitrate x s) := by
  rcases arbitrate_cases x s with e | ⟨-, r, -, e⟩ | ⟨-, -, e⟩ <;> rw [e]
  · exact h
  · exact (h.setPort _ _).updateRecord (fun _ hq => hq) fun _ _ _ _ => ⟨rfl, rfl⟩
  · exact h.setPort _ _

theorem arbitrateBoth (h : StockLaws pooled bounded waiting s) : StockLaws pooled bounded waiting (arbitrateBoth s) :=
  (h.arbitrate .a).arbitrate .b

theorem outcomeFailed (h : StockLaws pooled bounded waiting s) {r : Record} (hr : pooled ∨ bounded → s.carries r)
    (why : EndReason) : StockLaws pooled bounded waiting (outcomeFailed r why s) := by
  rcases outcomeFailed_cases r why s with ⟨why', e⟩ | e <;> rw [e]
  · exact h.endUndelivered (r := { r with attempts := r.attempts + 1 }) hr why'
  · exact h.holdRecord (r := { r with attempts := r.attempts + 1 }) hr _

theorem slotOutcome (h : StockLaws pooled bounded waiting s) (o : SlotOutcome) (n : Nat) :
    StockLaws pooled bounded waiting (slotOutcome o n s) := by
  unfold Machine.slotOutcome
  split
  · exact h
  · rename_i r hn
    have hr : pooled ∨ bounded → s.carries r := fun _ => carries_of_record? hn
    cases o with
    | ack => exact h.deliver hr
    | busy =>
      rcases outcomeBusy_cases r s with ⟨why, e⟩ | e <;> simp only [e]
      · exact h.endUndelivered (r := { r with busyCount := r.busyCount + 1 }) hr why
      · exact h.holdRecord (r := { r with busyCount := r.busyCount + 1 }) hr _
    | reject reason =>
      simp only [outcomeReject]
      split
      · exact h.endUndelivered hr _
      · exact h.endUndelivered (r := { r with rejectReason := some reason }) hr _
    | noReply => exact h.outcomeFailed hr _

theorem outcomeNoAccess (h : StockLaws pooled bounded waiting s) (n : Nat) :
    StockLaws pooled bounded waiting (outcomeNoAccess n s) := by
  unfold Machine.outcomeNoAccess
  split
  · exact h
  · exact h.outcomeFailed (fun _ => carries_of_record? (by assumption)) _

theorem abandonRecord (h : StockLaws pooled bounded waiting s) (n : Nat) :
    StockLaws pooled bounded waiting (abandonRecord n s) := by
  unfold Machine.abandonRecord
  split
  · exact h
  · split
    · exact h.endUndelivered (fun _ => carries_of_record? (by assumption)) _
    · exact h.updateRecord (fun _ hq => hq) fun _ _ _ _ => ⟨rfl, rfl⟩

/-! ## Withdrawals -/

theorem withdraw (h : StockLaws pooled bounded waiting s) {r : Record} (hr : pooled ∨ bounded → r ∈ s.records)
    (cause : Mark) : StockLaws pooled bounded waiting (withdraw r cause s) := by
  rcases withdraw_cases r cause s with ⟨-, e⟩ | ⟨-, e⟩ | ⟨-, e⟩ <;> rw [e]
  · exact h
  · exact h.updateRecord (fun _ hq => hq) fun _ _ _ _ => ⟨rfl, rfl⟩
  · refine StockLaws.endUndelivered ?_ (fun hb => carries_of_mem (by simpa using hr hb)) _
    rcases dropRecordChoice_cases r s with e | ⟨-, e⟩ <;> rw [e]
    · exact h
    · exact h.setPort _ _

/-- A sweep reaches each record as it stood before the sweep (log 7). -/
theorem withdrawAll (h : StockLaws pooled bounded waiting s) (cause : Mark) {rs : List Record}
    (ha : pooled ∨ bounded → ascending Record.number rs = true) (hr : pooled ∨ bounded → ∀ r ∈ rs, r ∈ s.records) :
    StockLaws pooled bounded waiting (withdrawAll cause rs s) := by
  induction rs generalizing s with
  | nil => exact h
  | cons r rs ih =>
    refine ih (h.withdraw (fun hb => hr hb r (by simp)) cause) (fun hb => ((ascending_cons r rs).mp (ha hb)).2)
      fun hb q hq => mem_withdraw (hr hb q (by simp [hq])) ?_ cause
    exact (((ascending_cons r rs).mp (ha hb)).1 q hq).ne'

theorem withdrawAll_filter (h : StockLaws pooled bounded waiting s) (cause : Mark) (hit : Record → Bool) :
    StockLaws pooled bounded waiting (Machine.withdrawAll cause (s.records.filter hit) s) :=
  h.withdrawAll cause (fun hb => ascending_filter _ ((numbered_iff s).mp (h.numbered hb)).1)
    fun _ _ => List.mem_of_mem_filter

theorem routeCheck (h : StockLaws pooled bounded waiting s) (chosen : Record → Bool) :
    StockLaws pooled bounded waiting (routeCheck chosen s) :=
  (h.withdrawAll_filter .unrouted _).arbitrateBoth

theorem purgeRecords (h : StockLaws pooled bounded waiting s) (destination : Option Nat) (side : Option Side) :
    StockLaws pooled bounded waiting (purgeRecords destination side s) :=
  (h.withdrawAll_filter .purged _).arbitrateBoth

theorem learn (h : StockLaws pooled bounded waiting s) (x : Side) (src : Nat) :
    StockLaws pooled bounded waiting (learn x src s) := by
  have put : ∀ e, StockLaws pooled bounded waiting (putStation e s) := fun _ => h.of_stock rfl
  rcases learn_cases x src s with e | e | ⟨_, e⟩ | ⟨_, _, e⟩ <;> rw [e]
  · exact h
  · exact (h.count _).latch _
  · exact put _
  · exact ((put _).latch _).routeCheck _

/-! ## The plain queues and the segment reset -/

/-- The head of a plain queue leaves with its cells (R33, R79). -/
theorem releaseHead (h : StockLaws pooled bounded waiting s) (x : Side) :
    StockLaws pooled bounded waiting (releaseHead x s) := by
  cases hq : s.queue x with
  | nil =>
    rw [Machine.releaseHead, hq]
    exact h
  | cons e rest =>
    rw [releaseHead_cons hq]
    refine h.exchange_queue x (q := rest) rfl ?_
    simp only [hq, sumCells, List.map_cons, List.sum_cons]
    omega

/-- A flush frees the cells of every entry (R84). -/
theorem flushQueue (h : StockLaws pooled bounded waiting s) (x : Side) :
    StockLaws pooled bounded waiting (flushQueue x s) := by
  rw [flushQueue_eq]
  exact h.exchange_queue x (q := []) rfl rfl

/-- Records that end one after another, each as it stood before (log 7). -/
theorem endAll (h : StockLaws pooled bounded waiting s) (why : EndReason) {rs : List Record}
    (ha : pooled ∨ bounded → ascending Record.number rs = true) (hr : pooled ∨ bounded → ∀ r ∈ rs, r ∈ s.records) :
    StockLaws pooled bounded waiting (endAll why rs s) := by
  induction rs generalizing s with
  | nil => exact h
  | cons r rs ih =>
    refine ih (h.endUndelivered (fun hb => carries_of_mem (hr hb r (by simp))) why)
      (fun hb => ((ascending_cons r rs).mp (ha hb)).2)
      fun hb q hq => mem_endUndelivered (hr hb q (by simp [hq])) ?_ why
    exact (((ascending_cons r rs).mp (ha hb)).1 q hq).ne'

theorem segmentResetPort (h : StockLaws pooled bounded waiting s) (x : Side) :
    StockLaws pooled bounded waiting (segmentResetPort x s) := by
  rw [segmentResetPort_eq]
  refine (h.setPort x (s.port x).atSegmentReset).exchange_queue x (q := [])
    (free := s.free + sumCells PlainEntry.cells (s.queue x)) (by cases x <;> rfl) ?_
  rw [queue_setPort, setPort_free]
  rfl

/-- The requests from side X go with their cells, the others stay (R170). -/
theorem resetBlocks (h : StockLaws pooled bounded waiting s) (x : Side) :
    StockLaws pooled bounded waiting (resetBlocks x s) := by
  rw [resetBlocks_eq]
  refine h.exchange_requests rfl ⟨rfl, rfl⟩ rfl ?_
  have := sumCells_filter_add Request.cells (fun q => q.side == x) s.requests
  simp only [bne]
  omega

theorem segmentReset (h : StockLaws pooled bounded waiting s) (x : Side) :
    StockLaws pooled bounded waiting (segmentReset x s) := by
  have hp := h.segmentResetPort x
  rw [segmentReset_eq]
  refine ((hp.endAll .segmentReset (rs := s.outOf x) (fun hb => ?_) fun _ r hr => ?_).resetBlocks x).arbitrateBoth
  · exact ascending_filter _ ((numbered_iff s).mp (h.numbered hb)).1
  · rw [segmentResetPort_records]
    exact List.mem_of_mem_filter hr

/-- A plain telegram takes its cells and joins the other side's queue, or is dropped (R76, R83). -/
theorem plainHandOff (h : StockLaws pooled bounded waiting s) (x : Side) (t : Telegram) :
    StockLaws pooled bounded waiting (plainHandOff x t s) := by
  by_cases hfit : s.fitsPlain x t
  · rw [(plainHandOff_cases x t s).1 hfit]
    refine (h.exchange_queue x.other (q := s.queue x.other ++ [{ inSide := x, telegram := t }])
      (free := s.free - cellsFor t.payload.length) ?_ ?_).arbitrate _
    · cases x <;> rfl
    · obtain ⟨-, -, hroom⟩ := hfit
      simp only [sumCells, List.map_append, List.sum_append, List.map_cons, List.map_nil, List.sum_cons, List.sum_nil,
        PlainEntry.cells]
      omega
  · rw [(plainHandOff_cases x t s).2 hfit]
    exact h.count _

end StockLaws

/-! ## Custody and management acceptance -/

theorem recordFinal_stock (x : Side) (t : Telegram) (reply : FinalReply) (s : State) :
    (recordFinal x t reply s).stock = s.stock := by
  have hroom : (makeDupRoom s).stock = s.stock := by
    unfold makeDupRoom
    split
    · split <;> rfl
    · rfl
  unfold recordFinal
  dsimp only
  split
  · rfl
  · exact hroom

theorem answerDuplicate_stock {x : Side} {t : Telegram} {s s' : State} {reply : FinalReply}
    (h : answerDuplicate x t s = some (reply, s')) : s'.stock = s.stock := by
  unfold answerDuplicate at h
  split at h
  · cases h
  · split at h <;> cases h
    rfl

namespace StockLaws

variable {pooled bounded : Prop} {waiting : List Instr} {s t : State} {x : Side}

theorem giveFinal (h : StockLaws pooled bounded waiting s) (x : Side) (t : Telegram) (reply : FinalReply) :
    StockLaws pooled bounded waiting (giveFinal x t reply s).2 := h.of_stock (recordFinal_stock x t reply s)

theorem giveChosen (h : StockLaws pooled bounded waiting s) (x : Side) (t : Telegram) (reply : FinalReply) :
    StockLaws pooled bounded waiting (giveChosen x t reply s).2 := by
  unfold Machine.giveChosen
  split
  · exact h.of_stock (answerDuplicate_stock (by assumption))
  · exact h.giveFinal x t reply

/-- A request joins the queue with its cells (R101, R102). -/
theorem acceptRequest (h : StockLaws pooled bounded waiting s) (x : Side) (t : Telegram) :
    StockLaws pooled bounded waiting (acceptRequest x t s).2 := by
  unfold Machine.acceptRequest
  split
  · exact h.of_stock (answerDuplicate_stock (by assumption))
  · split
    · exact h
    · rename_i hroom
      simp only [not_or, not_lt] at hroom
      have hfree : (claimCells (cellsFor t.payload.length) s).free = s.free - cellsFor t.payload.length := rfl
      refine giveFinal (s := storeRequest x t s) (h.exchange_requests rfl ⟨rfl, rfl⟩ rfl ?_) x t .ack
      simp only [hfree, storeRequest, claimCells_requests, sumCells, List.map_append, List.sum_append, List.map_cons,
        List.map_nil, List.sum_cons, List.sum_nil, Request.cells]
      omega

/-- The relay takes custody only with five descriptors free, so that 60 hold FORWARD records at most (R96, R106). -/
theorem acceptCustody (h : StockLaws pooled bounded waiting s) (x : Side) (t : Telegram) (admitted : Bool) :
    StockLaws pooled bounded waiting (acceptCustody x t admitted s).2 := by
  unfold Machine.acceptCustody
  split
  · exact h.of_stock (answerDuplicate_stock (by assumption))
  · split
    · exact h.giveFinal x t _
    · split
      · exact h.giveFinal x t _
      · split
        · exact h
        · rename_i hroom
          simp only [State.custodyRoom, Bool.not_eq_false, Bool.and_eq_true, decide_eq_true_eq,
            Config.forwardDescriptorFloor] at hroom
          have hdesc : 5 ≤ s.freeDescriptors := of_decide_eq_true hroom.1
          have hcells := le_trans (Nat.le_add_right _ _) hroom.2
          have hi := h.insertRecord (r := forwardRecord x t s) (le_trans (by decide : 1 ≤ 5) hdesc) rfl
            hcells fun _ => hdesc
          exact ((hi.count .custodyAccepted).of_stock (recordFinal_stock x t .ack _)).arbitrate _

/-! ## The forwarding decision -/

theorem toOwn (h : StockLaws pooled bounded waiting s) (x : Side) (t : Telegram) :
    StockLaws pooled bounded waiting (toOwn x t s).1 := by
  unfold Machine.toOwn
  split
  · exact h.acceptRequest x t
  · exact h.giveChosen x t _
  · exact h.giveChosen x t _
  · exact h.giveChosen x t _
  · exact h.giveChosen x t _
  all_goals exact h

theorem sresetArrival (h : StockLaws pooled bounded waiting s) (x : Side) (t : Telegram) :
    StockLaws pooled bounded waiting (sresetArrival x t s) := by
  unfold Machine.sresetArrival
  dsimp only
  split
  · exact (h.segmentReset x).plainHandOff x t
  · exact h.segmentReset x

theorem toKnown (h : StockLaws pooled bounded waiting s) (x : Side) (t : Telegram) (e : StationEntry) :
    StockLaws pooled bounded waiting (toKnown x t e s).1 := by
  unfold Machine.toKnown
  split
  · exact h
  · split
    · exact h.acceptCustody x t _
    · split
      · exact h.plainHandOff x t
      · exact h

theorem toUnknown (h : StockLaws pooled bounded waiting s) (x : Side) (t : Telegram) :
    StockLaws pooled bounded waiting (toUnknown x t s).1 := by
  unfold Machine.toUnknown
  split
  · split
    · exact h.acceptCustody x t _
    · exact h.plainHandOff x t
  · exact h
  · split
    · exact h.giveChosen x t _
    · exact h

theorem classify (h : StockLaws pooled bounded waiting s) (x : Side) (t : Telegram) :
    StockLaws pooled bounded waiting (classify x t s).1 := by
  unfold Machine.classify
  split
  · exact h
  · split
    · split
      · exact h.plainHandOff x t
      · exact h
    · split
      · split
        · exact h.plainHandOff x t
        · exact h
      · split
        · exact h.toKnown x t _
        · exact h.toUnknown x t

theorem reportSlot (h : StockLaws pooled bounded waiting s) (x : Side) (o : SlotOutcome) :
    StockLaws pooled bounded waiting (reportSlot x o s) := by
  unfold Machine.reportSlot
  split
  exacts [h, h.slotOutcome o _]

theorem slotArrival (h : StockLaws pooled bounded waiting s) (x : Side) (t : Telegram) :
    StockLaws pooled bounded waiting (slotArrival x t s) := by
  unfold Machine.slotArrival
  split
  · split
    exacts [h, h.reportSlot x _]
  · exact (h.count _).reportSlot x _

/-- The stages after learning (R46). -/
theorem dispose (h : StockLaws pooled bounded waiting s) (x : Side) (t : Telegram) :
    StockLaws pooled bounded waiting (dispose x t s).1 := by
  unfold Machine.dispose
  split
  · exact h.slotArrival x t
  · split
    · exact h.count _
    · split
      · exact h.toOwn x t
      · split
        · exact h.sresetArrival x t
        · exact h.classify x t

theorem forward (h : StockLaws pooled bounded waiting s) (x : Side) (t : Telegram) :
    StockLaws pooled bounded waiting (forward x t s).1 := by
  unfold Machine.forward
  split
  · have h1 := (h.count .sourceConflicts).latch .sourceConflict
    dsimp only
    split
    exacts [h1.reportSlot x _, h1]
  · exact (h.learn x t.src).dispose x t

/-! ## The end of a step -/

/-- An EVENT record takes its cell and its descriptor (R175). -/
theorem createEvent (h : StockLaws pooled bounded waiting s) (hp : s.eventPasses = true) :
    StockLaws pooled bounded waiting (createEvent s) := by
  simp only [State.eventPasses, Bool.and_eq_true, decide_eq_true_eq] at hp
  obtain ⟨hd, hf⟩ := hp
  unfold Machine.createEvent
  split
  · exact h
  · rename_i station side _
    have hone : cellsFor (eventPayload (claimCells 1 s)).length = 1 := by simp [eventPayload, eventSetBytes, beBytes, cellsFor]
    have hplace := h.placeRelayRecord hd .event station side (payload := eventPayload (claimCells 1 s)) (hone.trans_le hf)
    rw [hone] at hplace
    exact hplace.of_stock rfl

theorem testSend (h : StockLaws pooled bounded waiting s) : StockLaws pooled bounded waiting (testSend s) := by
  rcases testSend_cases s with ⟨⟨-, -, hp⟩, e⟩ | ⟨-, e⟩ <;> rw [e]
  · exact h.createEvent hp
  · exact h.of_stock rfl

theorem withdrawClaim (h : StockLaws pooled bounded waiting s) : StockLaws pooled bounded waiting (withdrawClaim s) :=
  h.of_stock rfl
theorem closeTests (h : StockLaws pooled bounded waiting s) : StockLaws pooled bounded waiting (closeTests s) :=
  h.of_stock rfl

theorem finish (h : StockLaws pooled bounded waiting s) : StockLaws pooled bounded waiting (finish s) := by
  have h1 := h.arbitrateBoth.withdrawClaim
  unfold Machine.finish
  dsimp only
  split
  · exact h1
  · exact h1.testSend.arbitrateBoth.closeTests

/-! ## The steps of the lines -/

theorem activityStarts (h : StockLaws pooled bounded waiting s) (x : Side) :
    StockLaws pooled bounded waiting (activityStarts x s) := by
  unfold Machine.activityStarts
  dsimp only
  split <;> first | exact h | exact h.setPort x _

theorem takeReception (h : StockLaws pooled bounded waiting s) (x : Side) (bytes : List Byte) :
    StockLaws pooled bounded waiting (takeReception x bytes s) := by
  have leave : ∀ v, StockLaws pooled bounded waiting v → StockLaws pooled bounded waiting (leaveAwait x v) := fun v hv => by
    unfold leaveAwait
    split
    exacts [hv.setPort x _, hv]
  have discard : ∀ c, StockLaws pooled bounded waiting (discarded x c s) := fun c => by
    unfold discarded
    dsimp only
    split
    exacts [(h.count c).reportSlot x _, h.count c]
  unfold Machine.takeReception
  refine leave _ ?_
  split
  · exact discard _
  · exact discard _
  · rename_i t _
    have hf := (h.count (.rxGood x)).forward x t
    unfold answerSlot
    split
    exacts [hf.setPort x _, hf]

theorem receptionEnds (h : StockLaws pooled bounded waiting s) (x : Side) (bytes : List Byte) :
    StockLaws pooled bounded waiting (receptionEnds x bytes s) := by
  have h1 := h.setPort x ((s.port x).lineQuiet s.now)
  unfold Machine.receptionEnds
  dsimp only
  split
  · exact h
  · exact h
  · exact h1
  all_goals
    split
    exacts [h1, (h1.takeReception x bytes).finish]

theorem replyIsSent (h : StockLaws pooled bounded waiting s) (x : Side) :
    StockLaws pooled bounded waiting (replyIsSent x s) := by
  have hc : StockLaws pooled bounded waiting (countReply x s) := by
    unfold countReply
    split
    exacts [h.count _, h]
  unfold Machine.replyIsSent
  split
  exacts [(hc.setPort x _).finish, h]

theorem quietWaitEnds (h : StockLaws pooled bounded waiting s) (x : Side) :
    StockLaws pooled bounded waiting (quietWaitEnds x s) := by
  unfold Machine.quietWaitEnds
  dsimp only
  split
  exacts [(h.reach _).setPort x _, h]

theorem withdrawMarked (h : StockLaws pooled bounded waiting s) (x : Side) :
    StockLaws pooled bounded waiting (withdrawMarked x s) := by
  unfold Machine.withdrawMarked
  split
  · split
    · rename_i r hr
      split
      · exact (h.setPort x _).endUndelivered (fun _ => carries_of_record? (by simpa using hr)) _
      · exact h
    · exact h
  · exact h

theorem lineIsLost (h : StockLaws pooled bounded waiting s) (x : Side) :
    StockLaws pooled bounded waiting (lineIsLost x s) := by
  have hp := fun p => (h.count (.contentionLosses x)).setPort x p
  unfold Machine.lineIsLost
  dsimp only
  split
  · refine finish ?_
    split
    · exact (hp _).withdrawMarked x
    · unfold giveUpChoice
      split
      · exact ((hp _).releaseHead x).count _
      · exact (hp _).outcomeNoAccess _
      · exact hp _
  · exact h

theorem transmissionEnds (h : StockLaws pooled bounded waiting s) (x : Side) :
    StockLaws pooled bounded waiting (transmissionEnds x s) := by
  have hp := fun p => (h.count (.txTelegrams x)).setPort x p
  unfold Machine.transmissionEnds
  dsimp only
  split
  · split
    · refine finish ?_
      unfold plainIsSent
      dsimp only
      split
      exacts [((hp _).releaseHead x).segmentReset x, (hp _).releaseHead x]
    · exact (hp _).updateRecord (fun _ hq => hq) fun _ _ _ _ => ⟨rfl, rfl⟩
    · exact h
  · exact h

/-! ## The timers -/

theorem lineGoesDown (h : StockLaws pooled bounded waiting s) (x : Side) :
    StockLaws pooled bounded waiting (lineGoesDown x s) := by
  unfold Machine.lineGoesDown
  dsimp only
  split
  · have h1 := h.reach ((s.port x).lineOkSince + Config.lowDebounce)
    unfold enterDown
    dsimp only
    split
    · exact ((((h1.setPort x _).abandonRecord _).flushQueue x).latch _).finish
    · exact (((h1.setPort x _).flushQueue x).latch _).finish
  · exact h

theorem lineComesUp (h : StockLaws pooled bounded waiting s) (x : Side) :
    StockLaws pooled bounded waiting (lineComesUp x s) := by
  unfold Machine.lineComesUp
  dsimp only
  split
  exacts [(((h.reach _).setPort x _).latch _).finish, h]

theorem replyTimerExpires (h : StockLaws pooled bounded waiting s) (x : Side) :
    StockLaws pooled bounded waiting (replyTimerExpires x s) := by
  unfold Machine.replyTimerExpires leaveAwait
  dsimp only
  split
  · have h1 := fun m => (h.reach m).reportSlot x .noReply
    split
    exacts [((h1 _).setPort x _).finish, (h1 _).finish]
  · exact h

theorem holdEnds (h : StockLaws pooled bounded waiting s) (n : Nat) : StockLaws pooled bounded waiting (holdEnds n s) := by
  unfold Machine.holdEnds
  split
  · exact h
  · split
    · exact finish ((h.reach _).updateRecord (fun _ hq => hq) fun _ _ _ _ => ⟨rfl, rfl⟩)
    all_goals exact h

theorem lifetimeEnds (h : StockLaws pooled bounded waiting s) (n : Nat) :
    StockLaws pooled bounded waiting (lifetimeEnds n s) := by
  unfold Machine.lifetimeEnds
  split
  · exact h
  · rename_i r hr
    exact ((h.reach r.deadline).withdraw (fun _ => (record?_mem hr).1) .expired).finish

theorem dupHoldEnds (h : StockLaws pooled bounded waiting s) (source : Nat) :
    StockLaws pooled bounded waiting (dupHoldEnds source s) := by
  unfold Machine.dupHoldEnds
  split
  exacts [h, h.of_stock rfl]

theorem leaseEnds (h : StockLaws pooled bounded waiting s) : StockLaws pooled bounded waiting (leaseEnds s) := by
  unfold Machine.leaseEnds
  split
  · exact h
  · exact finish (h.of_stock rfl)

theorem eventRepeatEnds (h : StockLaws pooled bounded waiting s) :
    StockLaws pooled bounded waiting (eventRepeatEnds s) := by
  unfold Machine.eventRepeatEnds
  split
  · exact finish (h.of_stock rfl)
  all_goals exact h

end StockLaws

/-! ## The execution of a request -/

/-- The requests stand, and cells are only freed. -/
def Frees (s t : State) : Prop := t.requests = s.requests ∧ s.free ≤ t.free

theorem Frees.trans {s t u : State} (h : Frees s t) (k : Frees t u) : Frees s u := ⟨k.1.trans h.1, h.2.trans k.2⟩

theorem frees_of_stock {s t : State} (h : t.stock = s.stock) : Frees s t := by
  simp only [State.stock, Prod.mk.injEq] at h
  obtain ⟨hf, -, -, -, hq, -⟩ := h
  exact ⟨hq, hf.ge⟩

theorem frees_arbitrateBoth (s : State) : Frees s (arbitrateBoth s) := by
  have h : ∀ x v, Frees v (arbitrate x v) := fun x v => by
    obtain ⟨hk, -, hf, -⟩ := arbitrate_keeps x v
    obtain ⟨-, -, -, hm, -⟩ := hk
    exact ⟨hm.1, hf.ge⟩
  exact (h .a s).trans (h .b _)

/-- A sweep frees the cells of what it withdraws (R121, R80). -/
theorem frees_withdrawAll (cause : Mark) (rs : List Record) (s : State) : Frees s (withdrawAll cause rs s) := by
  refine withdrawAll_induction cause rs (fun r v hv => hv.trans ?_) ⟨rfl, le_rfl⟩
  rcases withdraw_cases r cause v with ⟨-, e⟩ | ⟨-, e⟩ | ⟨-, e⟩ <;> rw [e]
  · exact ⟨rfl, le_rfl⟩
  · exact ⟨rfl, le_rfl⟩
  · have he := Ended.one r cause.reason (dropRecordChoice r v)
    have hd : Frees v (dropRecordChoice r v) := by
      rcases dropRecordChoice_cases r v with e | ⟨-, e⟩ <;> rw [e]
      · exact ⟨rfl, le_rfl⟩
      · exact ⟨setPort_requests .., (setPort_free ..).ge⟩
    exact hd.trans ⟨he.keeps.management.1, he.free ▸ Nat.le_add_right _ _⟩

/-- Commands other than COMMIT and PURGE leave the stock (R155, part 4). -/
theorem carryOut_stock {c : Command} (hc : c ≠ .commit) (hp : c ≠ .purge) (q : Request) (s : State) :
    (carryOut c q s).1.stock = s.stock := by
  cases c
  case commit => exact absurd rfl hc
  case purge => exact absurd rfl hp
  case identify | readEvents => rfl
  all_goals
    simp only [carryOut, doReadStations, doReadConfig, doReadCounters, clearCounters, doReadCustody, doOpenSession,
      doCloseSession, doStageStation, doUnstageStation, doStageGroups, doStageParams, doRestart,
      doSetEventStation, doSetEventMask, doClearEvents]
    (repeat' split) <;> rfl

/-- What part 4 of an execution leaves: the laws of the stock, the requests, and no fewer cells free. -/
structure Leaves (pooled bounded : Prop) (waiting : List Instr) (s t : State) : Prop where
  laws : StockLaws pooled bounded waiting t
  frees : Frees s t

namespace Leaves

variable {pooled bounded : Prop} {waiting : List Instr} {s t u : State}

theorem of_stock (h : StockLaws pooled bounded waiting s) (e : t.stock = s.stock) : Leaves pooled bounded waiting s t :=
  ⟨h.of_stock e, frees_of_stock e⟩

theorem trans (h : Leaves pooled bounded waiting s t) (k : Leaves pooled bounded waiting t u) :
    Leaves pooled bounded waiting s u := ⟨k.laws, h.frees.trans k.frees⟩

theorem doPurge (h : StockLaws pooled bounded waiting s) (q : Request) :
    Leaves pooled bounded waiting s (doPurge q s).1 := by
  unfold Machine.doPurge
  split
  · exact of_stock h rfl
  · split
    · exact of_stock h rfl
    · split
      · exact of_stock h rfl
      · exact ⟨h.purgeRecords _ _, (frees_withdrawAll _ _ _).trans (frees_arbitrateBoth _)⟩

theorem carryOutCommit (h : StockLaws pooled bounded waiting s) (keepOpen : Bool) (c : Session) :
    Leaves pooled bounded waiting s (carryOutCommit keepOpen c s) := by
  have einstall : (latch .committed (expireDups (installConfig c.staged s))).stock = s.stock := by
    simp only [State.stock, latch, expireDups, installConfig]
  have hsettle : ∀ v : State, (settleSession keepOpen c v).stock = v.stock := fun v => by
    unfold settleSession
    split <;> rfl
  have hroute := (h.of_stock einstall).routeCheck fun _ => true
  have hfrees : Frees s (routeCheck (fun _ => true) (latch .committed (expireDups (installConfig c.staged s)))) :=
    (frees_of_stock einstall).trans ((frees_withdrawAll _ _ _).trans (frees_arbitrateBoth _))
  exact ⟨hroute.of_stock (hsettle _), hfrees.trans (frees_of_stock (hsettle _))⟩

theorem doCommit (h : StockLaws pooled bounded waiting s) (q : Request) :
    Leaves pooled bounded waiting s (doCommit q s).1 := by
  unfold Machine.doCommit
  split
  · exact of_stock h rfl
  · split
    · exact of_stock h rfl
    · split
      · exact of_stock h rfl
      · split
        · exact carryOutCommit h _ _
        · exact of_stock h rfl

theorem carryOut (h : StockLaws pooled bounded waiting s) (c : Command) (q : Request) :
    Leaves pooled bounded waiting s (carryOut c q s).1 := by
  by_cases hc : c = .commit
  · exact hc ▸ doCommit h q
  · by_cases hp : c = .purge
    · exact hp ▸ doPurge h q
    · exact of_stock h (carryOut_stock hc hp q s)

theorem decideRequest (h : StockLaws pooled bounded waiting s) (q : Request) :
    Leaves pooled bounded waiting s (decideRequest q s).1 := by
  have hr : Leaves pooled bounded waiting s (renewLease q s) := of_stock h <| by
    unfold renewLease
    split
    · split <;> rfl
    · rfl
  unfold Machine.decideRequest
  dsimp only
  split
  · exact hr.trans (carryOut hr.laws _ q)
  · exact hr

end Leaves

namespace StockLaws

variable {pooled bounded : Prop} {waiting : List Instr} {s t : State} {x : Side}

/-- The head of the request queue leaves with its cells (R155, part 6). -/
theorem leaveQueue (h : StockLaws pooled bounded waiting s) {q : Request} {rest : List Request}
    (hq : s.requests = q :: rest) : StockLaws pooled bounded waiting (leaveQueue q rest s) := by
  refine h.exchange_requests rfl ⟨rfl, rfl⟩ rfl ?_
  have hfree : (Machine.leaveQueue q rest s).free = s.free + q.cells := rfl
  have hrest : (Machine.leaveQueue q rest s).requests = rest := rfl
  simp only [hfree, hrest, hq, sumCells, List.map_cons, List.sum_cons]
  omega

/-- The head executes when the free count holds its response, and its command takes no cell (R153, R154, R155). -/
theorem executeHead (h : StockLaws pooled bounded waiting s) (hp : s.headPasses = true) :
    StockLaws pooled bounded waiting (executeHead s) := by
  unfold Machine.executeHead
  unfold State.headPasses at hp
  split
  · exact h
  · rename_i q rest hq
    simp only [hq, State.canExecute, Bool.and_eq_true, decide_eq_true_eq] at hp
    obtain ⟨⟨-, hdesc⟩, hcells⟩ := hp
    obtain ⟨hlaws, hrequests, hfree⟩ := Leaves.decideRequest h q
    have hlen := (keepsNumbers_decideRequest q s).of.1
    have hroom : 1 ≤ (decideRequest q s).1.freeDescriptors := by
      rw [State.freeDescriptors, hlen]
      exact hdesc
    exact (hlaws.placeRelayRecord hroom .response q.station q.side (hcells.trans hfree)).leaveQueue (hrequests.trans hq)

/-! ## Restarts, the due steps and every command -/

/-- With every cell free and nothing held the laws stand. -/
theorem cleared (hfree : s.free = 384) (hr : s.records = []) (ha : s.queueA = []) (hb : s.queueB = [])
    (hq : s.requests = []) (hp : s.pending = waiting) : StockLaws pooled bounded waiting s where
  numbered _ := by simp [State.numbered, hr, ascending]
  pool _ := by simp [State.heldCells, sumCells, hfree, hr, ha, hb, hq]
  bound _ := by simp [sumCells, hr]
  pending := hp

theorem resetWith (h : StockLaws pooled bounded waiting s) (straps : Straps) :
    StockLaws pooled bounded waiting (resetWith straps s) := cleared rfl rfl rfl rfl rfl h.pending

theorem carryOutDue (h : StockLaws pooled bounded waiting s) {d : Due} (hd : s.due = some d) :
    StockLaws pooled bounded waiting (carryOutDue d s) := by
  obtain ⟨hhead, hevent⟩ := due_passes hd
  refine finish ?_
  cases d with
  | restart k =>
    cases k with
    | queues => exact cleared rfl rfl rfl rfl rfl h.pending
    | full => exact h.resetWith _
  | responseClaim => exact h.executeHead (hhead (.inr rfl))
  | eventClaim => exact h.createEvent (hevent rfl)
  | head => exact h.executeHead (hhead (.inl rfl))

theorem takeDue (h : StockLaws pooled bounded waiting s) (wanted : State → Due → Bool) (n : Nat) :
    StockLaws pooled bounded waiting (takeDue wanted n s) := by
  induction n generalizing s with
  | zero => exact h
  | succ n ih =>
    unfold Machine.takeDue
    split
    · exact h
    · rename_i d hd
      split
      exacts [h.carryOutDue hd, ih (h.carryOutDue hd)]

theorem settle (h : StockLaws pooled bounded waiting s) : StockLaws pooled bounded waiting (settle s) := h.takeDue _ _

theorem fromOutside (h : StockLaws pooled bounded waiting s) (dt : Nat) {effect : State → State}
    (he : ∀ v, StockLaws pooled bounded waiting v → StockLaws pooled bounded waiting (effect v)) :
    ∃ t, fromOutside dt effect s = .next t ∧ StockLaws pooled bounded waiting t := by
  refine ⟨_, rfl, ?_⟩
  split
  exacts [h.settle.elapse dt, he _ (h.settle.elapse dt)]

theorem fromTimer (h : StockLaws pooled bounded waiting s) {effect : State → State}
    (he : ∀ v, StockLaws pooled bounded waiting v → StockLaws pooled bounded waiting (effect v)) :
    ∃ t, fromTimer effect s = .next t ∧ StockLaws pooled bounded waiting t := by
  refine ⟨_, rfl, ?_⟩
  split
  exacts [h.settle, he _ h.settle]

/-- Every command answers next, and keeps the laws of the stock. -/
theorem exec (h : StockLaws pooled bounded waiting s) (c : Instr) :
    ∃ t, exec c s = .next t ∧ StockLaws pooled bounded waiting t := by
  cases c with
  | hardwareReset dt straps => exact ⟨_, rfl, (h.settle.elapse dt).resetWith straps⟩
  | lineDown x => exact h.fromTimer fun _ hv => hv.lineGoesDown x
  | lineUp x => exact h.fromTimer fun _ hv => hv.lineComesUp x
  | lineActivityStart dt x => exact h.fromOutside dt fun _ hv => hv.activityStarts x
  | receptionEnd dt x bytes => exact h.fromOutside dt fun _ hv => hv.receptionEnds x bytes
  | replySent dt x => exact h.fromOutside dt fun _ hv => hv.replyIsSent x
  | quietWaitComplete x => exact h.fromOutside 0 fun _ hv => hv.quietWaitEnds x
  | contentionLoss dt x => exact h.fromOutside dt fun _ hv => hv.lineIsLost x
  | transmitDone dt x => exact h.fromOutside dt fun _ hv => hv.transmissionEnds x
  | replyTimerExpiry x => exact h.fromTimer fun _ hv => hv.replyTimerExpires x
  | holdEnd n => exact h.fromTimer fun _ hv => hv.holdEnds n
  | lifetimeExpiry n => exact h.fromTimer fun _ hv => hv.lifetimeEnds n
  | agingTick => exact h.fromTimer fun _ hv => hv.of_stock rfl
  | dupHoldExpiry source => exact h.fromTimer fun _ hv => hv.dupHoldEnds source
  | leaseExpiry => exact h.fromTimer fun _ hv => hv.leaseEnds
  | eventRepeatExpiry => exact h.fromTimer fun _ hv => hv.eventRepeatEnds
  | lineOkChange dt x level =>
    refine ⟨_, rfl, ?_⟩
    unfold lineOkChanged
    split
    exacts [h.settle.elapse dt, (h.settle.elapse dt).setPort x _]
  | resetNLow dt lowFor =>
    refine ⟨_, rfl, ?_⟩
    split
    exacts [h.settle.elapse dt, ((h.settle.elapse dt).elapse lowFor).of_stock rfl]
  | restartFull straps =>
    have hp : StockLaws pooled bounded waiting { s with pins := straps } := h.of_stock rfl
    exact ⟨_, rfl, hp.takeDue _ _⟩
  | eventClaimGranted | responseClaimGranted | malformedRequest | identify | readStations | readConfig | readCounters
  | readCustody | readEvents | openSession | closeSession | stageStation | unstageStation | stageGroups | stageParams
  | commit | purge | restart | restartQueues | setEventStation | setEventMask | clearEvents =>
    exact ⟨_, rfl, h.takeDue _ _⟩

/-- Every step keeps the laws of the stock; of the commands that wait it takes the first (log 2). -/
theorem step (h : StockLaws pooled bounded waiting s) (ht : step s = .next t) :
    StockLaws pooled bounded t.pending t := by
  suffices hw : ∃ waiting, StockLaws pooled bounded waiting t by
    obtain ⟨_, hw⟩ := hw
    exact hw.pending.symm ▸ hw
  unfold Machine.step at ht
  split at ht
  · obtain rfl := Host.Outcome.next.inj ht
    exact ⟨_, h⟩
  · rename_i c rest _
    have hs : StockLaws pooled bounded rest { s with pending := rest } := ⟨h.numbered, h.pool, h.bound, rfl⟩
    obtain ⟨v, hv, hlaws⟩ := hs.exec c
    obtain rfl := Host.Outcome.next.inj (hv.symm.trans ht)
    exact ⟨_, hlaws⟩

end StockLaws
end Sys2Proof.Machine

namespace Sys2Proof.Settled

open Sys2Proof.Machine

/-- Settles O57: every step keeps the pool balanced, and at most 60 descriptors hold FORWARD records. -/
theorem poolAndDescriptorsKept : Obligations.PoolAndDescriptorsKept := fun s t ht =>
  ⟨fun hs => (balanced_iff t).mpr (((balanced_iff s).mp hs).step ht),
    fun hs => (forwardBounded_iff t).mpr (((forwardBounded_iff s).mp hs).step ht)⟩

end Sys2Proof.Settled
end

section
/-! SUPPORT. The EVENT claim that is granted when it is due (R78, R175), and the statement on it. -/

namespace Sys2Proof.Machine

/-- The send condition in its parts (R175). -/
theorem sendCondition_iff (s : State) : s.sendCondition = true ↔ s.eventStation ≠ none ∧ s.eventRecord = none
    ∧ (s.latched &&& s.mask &&& ~~~ s.reported ≠ 0#16 ∨ (s.repeatTimer = .expired ∧ s.latched &&& s.mask ≠ 0#16)) := by
  simp only [State.sendCondition, State.unmasked, Bool.and_eq_true, Bool.or_eq_true, bne_iff_ne, beq_iff_eq,
    Option.isSome_iff_ne_none, Option.isNone_iff_eq_none, and_assoc]

/-- The due claim is granted: the record is created, and the step ends (R78, R175). -/
theorem exec_eventClaimGranted {s : State} (h : s.due = some .eventClaim) :
    exec .eventClaimGranted s = .next (finish (createEvent s)) :=
  congrArg Host.Outcome.next (carryOutWanted_due h rfl)

/-- The creation of an EVENT record leaves what is to be tested (R78, R153). -/
theorem createEvent_keepsTests (s : State) :
    (createEvent s).claimsDue = s.claimsDue ∧ (createEvent s).headDue = s.headDue := by
  unfold createEvent
  split <;> exact ⟨rfl, rfl⟩

end Sys2Proof.Machine

namespace Sys2Proof.Settled

open Sys2Proof.Machine

/-- Settles O42: the EVENT record that the granted claim creates, its frame, and the send condition in its parts. -/
theorem eventClaimGranted : Obligations.EventClaimGranted := by
  refine ⟨fun s hn hd hsend => ?_, sendCondition_iff⟩
  obtain ⟨⟨station, side⟩, he⟩ := Option.ne_none_iff_exists'.mp ((sendCondition_iff s).mp hsend).1
  obtain ⟨hmade, hkeeps, hnow, hrestart, hresp, hclaim, hport, hrecords, hnumbered, -⟩ :=
    createEvent_spec hn he ((due_passes hd).2 rfl)
  obtain ⟨hclaims, hhead⟩ := createEvent_keepsTests s
  exact ⟨createEvent s, _, exec_eventClaimGranted hd, ends_finish hnumbered, hmade, hkeeps, hnow, hclaim, hrestart, hresp,
    hclaims, hhead, hport, hrecords⟩

end Sys2Proof.Settled
end

section
/-! SUPPORT. Every command answers next, and what is due comes first (log 3): the strap levels last seen are read by a full
restart alone, each command waits for its own due step, and the statement on both. -/

namespace Sys2Proof.Machine

/-! ## The strap levels last seen -/

/-- The strap levels last seen are these (log 22). -/
def withPins (p : Straps) (s : State) : State := { s with pins := p }

section
variable (p : Straps) (s : State) (x : Side)

@[simp] theorem port_withPins : (withPins p s).port x = s.port x := by cases x <;> rfl
@[simp] theorem queue_withPins : (withPins p s).queue x = s.queue x := by cases x <;> rfl
@[simp] theorem candidate_withPins : (withPins p s).candidate x = s.candidate x := rfl
@[simp] theorem permits_withPins (n : Nat) : (withPins p s).permits n = s.permits n := rfl
@[simp] theorem holderTests_withPins (q : Request) : holderTests q (withPins p s) = holderTests q s := rfl
@[simp] theorem sendCondition_withPins : (withPins p s).sendCondition = s.sendCondition := rfl
@[simp] theorem session_withPins : (withPins p s).session = s.session := rfl
@[simp] theorem epoch_withPins : (withPins p s).epoch = s.epoch := rfl
@[simp] theorem own_withPins : (withPins p s).own = s.own := rfl
@[simp] theorem eventStation_withPins : (withPins p s).eventStation = s.eventStation := rfl
@[simp] theorem eventClaim_withPins : (withPins p s).eventClaim = s.eventClaim := rfl
@[simp] theorem eventPasses_withPins : (withPins p s).eventPasses = s.eventPasses := rfl
@[simp] theorem requests_withPins : (withPins p s).requests = s.requests := rfl

@[simp] theorem setPort_withPins (q : Port) : setPort x q (withPins p s) = withPins p (setPort x q s) := by
  cases x <;> rfl

/-- The arbiter reads no strap. -/
@[simp] theorem arbitrate_withPins : arbitrate x (withPins p s) = withPins p (arbitrate x s) := by
  have hrecord : ∀ r, chooseRecord x r (withPins p s) = withPins p (chooseRecord x r s) := fun r => by
    simp only [chooseRecord, port_withPins, setPort_withPins]
    rfl
  have hplain : choosePlain x (withPins p s) = withPins p (choosePlain x s) := by
    simp only [choosePlain, port_withPins, setPort_withPins]
  simp only [arbitrate, port_withPins, candidate_withPins, queue_withPins, hrecord, hplain]
  repeat' split
  all_goals rfl

@[simp] theorem arbitrateBoth_withPins : arbitrateBoth (withPins p s) = withPins p (arbitrateBoth s) := by
  simp only [arbitrateBoth, arbitrate_withPins]

@[simp] theorem endUndelivered_withPins (r : Record) (why : EndReason) :
    endUndelivered r why (withPins p s) = withPins p (endUndelivered r why s) := by
  rcases ho : r.origin with _ | _ | _ | _
  · rw [endUndelivered_forward why _ ho, endUndelivered_forward why _ ho]
    rfl
  · rw [endUndelivered_response why _ ho, endUndelivered_response why _ ho]
    rfl
  · rw [endUndelivered_event why _ ho, endUndelivered_event why _ ho]
    rfl
  · rw [endUndelivered_notice why _ ho, endUndelivered_notice why _ ho]
    rfl

@[simp] theorem withdraw_withPins (r : Record) (cause : Mark) :
    withdraw r cause (withPins p s) = withPins p (withdraw r cause s) := by
  have hdrop : dropRecordChoice r (withPins p s) = withPins p (dropRecordChoice r s) := by
    simp only [dropRecordChoice, port_withPins, setPort_withPins]
    split <;> rfl
  have hw : (withPins p s).withdrawal r = s.withdrawal r := by simp only [State.withdrawal, port_withPins]
  simp only [withdraw, hw, hdrop, endUndelivered_withPins]
  split <;> rfl

@[simp] theorem withdrawAll_withPins (cause : Mark) (rs : List Record) :
    withdrawAll cause rs (withPins p s) = withPins p (withdrawAll cause rs s) := by
  induction rs generalizing s with
  | nil => rfl
  | cons r rs ih =>
    simp only [withdrawAll, List.foldl_cons, withdraw_withPins] at ih ⊢
    exact ih _

theorem routeCheck_withPins (chosen : Record → Bool) :
    routeCheck chosen (withPins p s) = withPins p (routeCheck chosen s) :=
  (congrArg arbitrateBoth (withdrawAll_withPins p s _ _)).trans (arbitrateBoth_withPins p _)

theorem purgeRecords_withPins (destination : Option Nat) (side : Option Side) :
    purgeRecords destination side (withPins p s) = withPins p (purgeRecords destination side s) :=
  (congrArg arbitrateBoth (withdrawAll_withPins p s _ _)).trans (arbitrateBoth_withPins p _)

/-- COMMIT reads no strap. -/
theorem carryOutCommit_withPins (keepOpen : Bool) (c : Session) :
    carryOutCommit keepOpen c (withPins p s) = withPins p (carryOutCommit keepOpen c s) := by
  have hinstall : installConfig c.staged (withPins p s) = withPins p (installConfig c.staged s) := by
    simp only [installConfig, withPins]
  have hexpire : ∀ v, latch .committed (expireDups (withPins p v)) = withPins p (latch .committed (expireDups v)) :=
    fun _ => rfl
  have hsettle : ∀ v, settleSession keepOpen c (withPins p v) = withPins p (settleSession keepOpen c v) := fun v => by
    unfold settleSession
    rw [permits_withPins]
    split <;> rfl
  simp only [carryOutCommit, hinstall, hexpire, routeCheck_withPins, hsettle]

/-- No command reads a strap, for its effect or for its answer (R155, part 4). -/
theorem carryOut_withPins (c : Command) (q : Request) :
    carryOut c q (withPins p s) = (withPins p (carryOut c q s).1, (carryOut c q s).2) := by
  cases c
  case identify | readEvents => rfl
  case commit =>
    simp only [carryOut, doCommit, holderTests_withPins, carryOutCommit_withPins]
    rw [epoch_withPins]
    (repeat' split) <;> rfl
  case purge =>
    simp only [carryOut, doPurge, purgeRecords_withPins]
    rw [permits_withPins]
    (repeat' split) <;> rfl
  case readCounters | openSession | restart | setEventStation | setEventMask | clearEvents =>
    simp only [carryOut, doReadCounters, doOpenSession, doRestart, doSetEventStation, doSetEventMask, doClearEvents,
      session_withPins, own_withPins]
    rw [permits_withPins]
    (repeat' split) <;> rfl
  all_goals
    simp only [carryOut, doReadStations, doReadConfig, doReadCustody, doCloseSession, doStageStation, doUnstageStation,
      doStageGroups, doStageParams, holderTests_withPins, session_withPins, own_withPins]
    (repeat' split) <;> rfl

theorem decideRequest_withPins (q : Request) :
    decideRequest q (withPins p s) = (withPins p (decideRequest q s).1, (decideRequest q s).2) := by
  have hrenew : renewLease q (withPins p s) = withPins p (renewLease q s) := by
    simp only [renewLease, session_withPins]
    repeat' split
    all_goals rfl
  simp only [decideRequest, hrenew, carryOut_withPins]
  split <;> rfl

/-- What is due is told without the straps, since the answer of the head is. -/
@[simp] theorem due_withPins : (withPins p s).due = s.due := by
  have hhead : (withPins p s).headPasses = s.headPasses := by
    have hcells : ∀ q, responseCells q (withPins p s) = responseCells q s := fun q => by
      simp only [responseCells, decideRequest_withPins]
    unfold State.headPasses State.canExecute
    simp only [hcells]
    rfl
  unfold State.due State.responseClaimDue
  rw [hhead]
  rfl

theorem executeHead_withPins : executeHead (withPins p s) = withPins p (executeHead s) := by
  simp only [executeHead, requests_withPins]
  split
  · rfl
  · simp only [executeRequest, decideRequest_withPins]
    rfl

theorem createEvent_withPins : createEvent (withPins p s) = withPins p (createEvent s) := by
  unfold createEvent
  rw [eventStation_withPins]
  split <;> rfl

theorem finish_withPins : finish (withPins p s) = withPins p (finish s) := by
  have htest : ∀ v, testSend (withPins p v) = withPins p (testSend v) := fun v => by
    unfold testSend
    rw [sendCondition_withPins, eventClaim_withPins, eventPasses_withPins, createEvent_withPins]
    repeat' split
    all_goals rfl
  have hclaim : ∀ v, withdrawClaim (withPins p v) = withPins p (withdrawClaim v) := fun _ => rfl
  have hclose : ∀ v, closeTests (withPins p v) = withPins p (closeTests v) := fun _ => rfl
  simp only [finish, arbitrateBoth_withPins, hclaim, due_withPins, htest, hclose]
  split <;> rfl

/-- Of the due steps a full restart alone reads the straps (R169). -/
theorem carryOutDue_withPins {d : Due} (hd : d ≠ .restart .full) :
    carryOutDue d (withPins p s) = withPins p (carryOutDue d s) := by
  unfold carryOutDue
  rw [← finish_withPins]
  cases d with
  | restart k =>
    cases k with
    | queues => rfl
    | full => exact absurd rfl hd
  | responseClaim => exact congrArg finish (executeHead_withPins p s)
  | eventClaim => exact congrArg finish (createEvent_withPins p s)
  | head => exact congrArg finish (executeHead_withPins p s)

end

/-! ## The due step of a command -/

/-- The due step that a command carries out as its own; a command of a line, a timer or the reset pin has none (log 3). -/
def wants : Instr → State → Due → Bool
  | .eventClaimGranted => fun _ d => d == .eventClaim
  | .responseClaimGranted => fun _ d => d == .responseClaim
  | .restartQueues => fun _ d => d == .restart .queues
  | .restartFull _ => fun _ d => d == .restart .full
  | c => fun s d => (executes c).any fun o => wantsCommand o s d

/-- The step due is the command's own: the cases of the statement. -/
def State.ownDue (s : State) (k : Instr) : Prop :=
  (∃ q rest, s.executing q rest ∧ executes k = some q.command)
    ∨ (s.due = some .responseClaim ∧ k = .responseClaimGranted)
    ∨ (s.due = some .eventClaim ∧ k = .eventClaimGranted)
    ∨ (s.due = some (.restart .queues) ∧ k = .restartQueues)
    ∨ (s.due = some (.restart .full) ∧ ∃ straps, k = .restartFull straps)

theorem wantsCommand_iff {s : State} {d : Due} (h : s.due = some d) (o : Option Command) :
    wantsCommand o s d = true ↔ ∃ q rest, s.executing q rest ∧ o = q.command := by
  simp only [wantsCommand, State.executing, h, eq_comm (a := o)]
  cases s.requests <;> simp

/-- A command wants the step that is due exactly when that step is its own. -/
theorem wants_iff {s : State} {d : Due} (h : s.due = some d) (k : Instr) : wants k s d = true ↔ s.ownDue k := by
  cases k <;> simp [wants, State.ownDue, executes, h, wantsCommand_iff h]

theorem due_of_ownDue {s : State} {k : Instr} (h : s.ownDue k) : ∃ d, s.due = some d := by
  rcases h with ⟨_, _, ⟨-, h | h⟩, -⟩ | ⟨h, -⟩ | ⟨h, -⟩ | ⟨h, -⟩ | ⟨h, -⟩
  all_goals exact ⟨_, h⟩

/-- Every step that is due is some command's own: of the head's execution, the command that its request carries. -/
theorem exists_ownDue {s : State} (h : s.due ≠ none) : ∃ k, s.ownDue k := by
  have hexec : ∀ o : Option Command, ∃ k, executes k = some o := fun o => by
    rcases o with _ | c
    · exact ⟨.malformedRequest, rfl⟩
    · cases c
      exacts [⟨.identify, rfl⟩, ⟨.readStations, rfl⟩, ⟨.readConfig, rfl⟩, ⟨.readCounters, rfl⟩, ⟨.readCustody, rfl⟩,
        ⟨.readEvents, rfl⟩, ⟨.openSession, rfl⟩, ⟨.closeSession, rfl⟩, ⟨.stageStation, rfl⟩, ⟨.unstageStation, rfl⟩,
        ⟨.stageGroups, rfl⟩, ⟨.stageParams, rfl⟩, ⟨.commit, rfl⟩, ⟨.purge, rfl⟩, ⟨.restart, rfl⟩,
        ⟨.setEventStation, rfl⟩, ⟨.setEventMask, rfl⟩, ⟨.clearEvents, rfl⟩]
  obtain ⟨d, hd⟩ := Option.ne_none_iff_exists'.mp h
  rcases due_cases hd with ⟨_ | _, rfl⟩ | ⟨rfl | rfl, hr⟩ | ⟨rfl, -⟩
  · exact ⟨.restartQueues, .inr (.inr (.inr (.inl ⟨hd, rfl⟩)))⟩
  · exact ⟨.restartFull s.pins, .inr (.inr (.inr (.inr ⟨hd, _, rfl⟩)))⟩
  · exact ⟨.responseClaimGranted, .inr (.inl ⟨hd, rfl⟩)⟩
  · obtain ⟨q, rest, hq⟩ := List.exists_cons_of_ne_nil hr
    obtain ⟨k, hk⟩ := hexec q.command
    exact ⟨k, .inl ⟨q, rest, ⟨hq, .inl hd⟩, hk⟩⟩
  · exact ⟨.eventClaimGranted, .inr (.inr (.inl ⟨hd, rfl⟩))⟩

/-- A command whose own step is due carries out that step, and no other (log 3). -/
theorem exec_of_wants {s : State} {d : Due} {k : Instr} (hd : s.due = some d) (hk : wants k s d = true)
    (hp : ∀ straps, k = .restartFull straps → straps = s.pins) : exec k s = .next (carryOutDue d s) := by
  have hown := congrArg (Host.Outcome.next (φ := Fault) (ρ := Refusal)) (carryOutWanted_due hd hk)
  cases k with
  | restartFull straps =>
    obtain rfl := hp straps rfl
    exact hown
  | eventClaimGranted | responseClaimGranted | malformedRequest | identify | readStations | readConfig | readCounters
  | readCustody | readEvents | openSession | closeSession | stageStation | unstageStation | stageGroups | stageParams
  | commit | purge | restart | restartQueues | setEventStation | setEventMask | clearEvents => exact hown
  | _ => cases hk

/-- What a command does is told from the state in which the due steps up to its own are carried out (log 3). -/
theorem exec_congr {s t : State} {c : Instr} (hc : ∀ straps, c ≠ .restartFull straps)
    (h : carryOutWanted (wants c) s = carryOutWanted (wants c) t) : exec c s = exec c t := by
  have houtside : settle s = settle t → ∀ dt effect, fromOutside dt effect s = fromOutside dt effect t :=
    fun hs dt effect => by simp only [fromOutside, hs]
  have htimer : settle s = settle t → ∀ effect, fromTimer effect s = fromTimer effect t :=
    fun hs effect => by simp only [fromTimer, hs]
  cases c with
  | restartFull straps => exact absurd rfl (hc straps)
  | eventClaimGranted | responseClaimGranted | malformedRequest | identify | readStations | readConfig | readCounters
  | readCustody | readEvents | openSession | closeSession | stageStation | unstageStation | stageGroups | stageParams
  | commit | purge | restart | restartQueues | setEventStation | setEventMask | clearEvents => exact congrArg Host.Outcome.next h
  | hardwareReset dt straps => exact congrArg (fun v => Host.Outcome.next (resetWith straps (elapse dt v))) h
  | lineOkChange dt x level => exact congrArg (fun v => Host.Outcome.next (lineOkChanged x level (elapse dt v))) h
  | resetNLow dt lowFor =>
    have hs : settle s = settle t := h
    simp only [exec, execResetNLow, hs]
  | lineActivityStart dt _ | receptionEnd dt _ _ | replySent dt _ | contentionLoss dt _ | transmitDone dt _ =>
    exact houtside h dt _
  | quietWaitComplete _ => exact houtside h 0 _
  | lineDown _ | lineUp _ | replyTimerExpiry _ | holdEnd _ | lifetimeExpiry _ | agingTick | dupHoldExpiry _ | leaseExpiry
  | eventRepeatExpiry => exact htimer h _

/-- Any other command finds the state that the due step leaves (log 3). -/
theorem exec_after_due {s : State} {d : Due} {c : Instr} (hd : s.due = some d) (hc : wants c s d = false) :
    exec c s = exec c (carryOutDue d s) := by
  by_cases hfull : ∃ straps, c = .restartFull straps
  · obtain ⟨straps, rfl⟩ := hfull
    have hne : d ≠ .restart .full := by simpa [wants] using hc
    have hafter := carryOutWanted_after (wanted := wants (.restartFull straps)) ((due_withPins straps s).trans hd) hc
    rw [carryOutDue_withPins straps s hne] at hafter
    exact congrArg Host.Outcome.next hafter
  · exact exec_congr (fun straps e => hfull ⟨straps, e⟩) (carryOutWanted_after hd hc)

/-- With nothing due, a command that executes the head, grants a claim or restarts the queues does nothing (log 4). -/
theorem exec_of_not_due {s : State} {c : Instr} (hd : s.due = none)
    (hc : executes c ≠ none ∨ c ∈ [Instr.responseClaimGranted, .eventClaimGranted, .restartQueues]) :
    exec c s = .next s := by
  have hnone := fun wanted =>
    congrArg (Host.Outcome.next (φ := Fault) (ρ := Refusal)) (carryOutWanted_of_not_due wanted hd)
  cases c with
  | eventClaimGranted | responseClaimGranted | malformedRequest | identify | readStations | readConfig | readCounters
  | readCustody | readEvents | openSession | closeSession | stageStation | unstageStation | stageGroups | stageParams
  | commit | purge | restart | restartQueues | setEventStation | setEventMask | clearEvents => exact hnone _
  | _ => simp [executes] at hc

end Sys2Proof.Machine

namespace Sys2Proof.Settled

open Sys2Proof.Machine

/-- Settles O2: every command answers next and keeps what waits; a due step comes first, and with none due a command that has
a due step of its own does nothing. -/
theorem everyCommandCompletes : Obligations.EveryCommandCompletes := by
  refine ⟨fun c s => ?_, fun s => ⟨exists_ownDue, fun k c t hk hp ht hc => ?_, fun hd => ⟨fun c => exec_of_not_due hd, ?_⟩⟩⟩
  · have hs : StockLaws False False s.pending s := ⟨by simp, nofun, nofun, rfl⟩
    obtain ⟨t, ht, hlaws⟩ := hs.exec c
    exact ⟨t, ht, hlaws.pending⟩
  · obtain ⟨d, hd⟩ := due_of_ownDue hk
    obtain rfl := Host.Outcome.next.inj ((exec_of_wants hd ((wants_iff hd k).mpr hk) hp).symm.trans ht)
    exact exec_after_due hd (Bool.eq_false_iff.mpr fun hw => hc ((wants_iff hd c).mp hw))
  · exact fun straps => congrArg Host.Outcome.next (carryOutWanted_of_not_due _ ((due_withPins straps s).trans hd))

end Sys2Proof.Settled
end

section
/-! SUPPORT. Custody acceptance (R93 to R98) and management acceptance (R101, R102): which arrivals reach them, what each
decides by its first test that decides, and the statements on the replies they give. -/

namespace Sys2Proof.Machine

/-! ## An arrival that gets a reply -/

/-- An arbiter runs the same before and after the other side's port changes (R26). -/
theorem setPort_arbitrate_other (x : Side) (p : Port) (s : State) :
    setPort x p (arbitrate x.other s) = arbitrate x.other (setPort x p s) := by
  have hport : (setPort x p s).port x.other = s.port x.other := by cases x <;> rfl
  have hqueue : (setPort x p s).queue x.other = s.queue x.other := queue_setPort ..
  have hcand : (setPort x p s).candidate x.other = s.candidate x.other := by cases x <;> rfl
  obtain ⟨f, hf, hfs⟩ := arbitrate_eq_taking x.other s
  rw [hfs s (fun _ => Iff.rfl) Iff.rfl, hfs (setPort x p s)
    (fun r => by rw [State.takesRecord, hport, hqueue, hcand, State.takesRecord])
    (by rw [State.takesPlain, hport, hqueue, hcand, State.takesPlain])]
  rcases hf with rfl | ⟨r, rfl⟩ | rfl
  · rfl
  · cases x <;> rfl
  · cases x <;> rfl

/-- A step ends the same when the other side's arbiter has already run before the reply begins (R97, R34; log 8). -/
theorem finish_replies_arbitrate (x : Side) (t : Telegram) (kind : ReplyKind) {u : State} (hn : u.numbered = true) :
    finish (replies x t kind (arbitrate x.other u)) = finish (replies x t kind u) := by
  have hport : (arbitrate x.other u).port x = u.port x := by simpa using arbitrate_other x.other u
  have hown : (arbitrate x.other u).own = u.own := (arbitrate_keeps x.other u).1.1.1
  have e : replies x t kind (arbitrate x.other u) = arbitrate x.other (replies x t kind u) := by
    simp only [replies, startReply, hport, hown]
    exact setPort_arbitrate_other ..
  rw [e, finish_arbitrate (numbered_replies x t kind hn)]

/-- An ordinary arrival that the source check lets pass, and whose decision gives a reply, ends its step with that reply
begun (R46, R34; log 8). -/
theorem answered_endsAs {s : State} {x : Side} {bytes : List Byte} {t0 : Telegram} {dt : Nat} {d : ReplyKind × State}
    (hready : s.ready = true) (hrecv : s.receives x) (hcheck : checkReception bytes = .wellFormed t0)
    (hconf : (s.quiet x dt).sourceConflict x t0.src = false)
    (hd : dispose x t0 (s.learned x dt t0.src) = replyTo t0 d) :
    ∃ t, exec (.receptionEnd dt x bytes) s = .next t
      ∧ ∀ kind u, finish (replies x t0 d.1 d.2) = finish (replies x t0 kind u) → u.numbered = true →
        EndsAs (replies x t0 kind u) t := by
  refine ⟨_, exec_receptionEnd_taken hready hrecv.2 (hrecv.1.imp_right .inl), fun kind u hf hn => ?_⟩
  rw [takeReception_wellFormed hcheck, forward_of_no_conflict hconf, hd, leaveAwait_replyTo x t0 d.1 d.2, hf]
  exact ends_finish (numbered_replies x t0 kind hn)

/-! ## Custody acceptance -/

/-- A confirmed telegram that crosses is decided by the Custody Unit (R59, R60, R62). -/
theorem dispose_handsOver {s : State} {x : Side} {t : Telegram} {admitted : Bool} (hs : (s.port x).state ≠ .awaitReply)
    (hk : t.kind.isConfirmed = true) (hi : isIndividual t.dst = true) (h : s.handsOver x t.dst admitted) :
    dispose x t s = replyTo t (acceptCustody x t admitted s) := by
  obtain ⟨hm, ho, hdst⟩ := h
  obtain ⟨hr, hsr⟩ := Kind.not_reply_of_confirmed hk
  rw [dispose_other hs hr ho hsr, classify_individual x hm hi]
  rcases hdst with ⟨e, hl, hx, rfl⟩ | ⟨hl, hp, rfl⟩
  · rw [hl, Option.elim_some, toKnown, if_neg hx, if_pos hk]
  · rw [hl, Option.elim_none, toUnknown, hp]
    exact if_pos hk

/-- The room test in numbers (R96). -/
theorem custodyRoom_iff (s : State) (t : Telegram) :
    s.custodyRoom t = true ↔ 5 ≤ s.freeDescriptors ∧ cellsFor t.payload.length + 8 ≤ s.free := by
  rw [State.custodyRoom, Bool.and_eq_true, decide_eq_true_eq, decide_eq_true_eq]
  exact Iff.rfl

/-- The state in which the relay has taken custody, before the other side's arbiter runs (R97). -/
def inCustody (x : Side) (t : Telegram) (s : State) : State :=
  recordFinal x t .ack (count .custodyAccepted
    (insertRecord (forwardRecord x t s) (claimCells (cellsFor t.payload.length) s)))

theorem takeCustody_eq (x : Side) (t : Telegram) (s : State) :
    takeCustody x t s = (.final .ack, arbitrate x.other (inCustody x t s)) := rfl

/-- The new FORWARD record takes a free descriptor (R96, R106). -/
theorem numbered_inCustody (x : Side) (t : Telegram) {s : State} (hd : 1 ≤ s.freeDescriptors) (h : s.numbered = true) :
    (inCustody x t s).numbered = true := by
  have hc : (claimCells (cellsFor t.payload.length) s).numbered = true := h
  rw [inCustody, numbered_recordFinal]
  exact numbered_insertRecord (forwardRecord x t s) (lowestFree_spec hd).1 hc

/-- What custody acceptance decides: the first test that decides gives the reply (R93). -/
theorem acceptCustody_spec (x : Side) (t : Telegram) (admitted : Bool) (s : State) :
    (∀ e, s.dup? t.src = some e → e.seq = t.seq → acceptCustody x t admitted s = (.final e.reply, renewDup x e s))
      ∧ (s.isNew t.src t.seq →
        ((s.port x.other).state = .down → acceptCustody x t admitted s =
          (.final (.reject .pathDown), recordFinal x t (.reject .pathDown) s))
        ∧ ((s.port x.other).state ≠ .down → admitted = false → acceptCustody x t admitted s =
          (.final (.reject .notAdmitted), recordFinal x t (.reject .notAdmitted) s))
        ∧ ((s.port x.other).state ≠ .down → admitted = true → ¬ s.custodyRoom t = true →
          acceptCustody x t admitted s = (.busy, s))
        ∧ ((s.port x.other).state ≠ .down → admitted = true → s.custodyRoom t = true →
          acceptCustody x t admitted s = (.final .ack, arbitrate x.other (inCustody x t s)))) := by
  refine ⟨fun e he hseq => ?_, fun hnew => ?_⟩
  · rw [acceptCustody, answerDuplicate_of_dup x he hseq]
  · rw [acceptCustody, answerDuplicate_of_new x hnew]
    refine ⟨fun hdown => ?_, fun hup ha => ?_, fun hup ha hroom => ?_, fun hup ha hroom => ?_⟩
    · simp [hdown, giveFinal]
    · simp [hup, ha, giveFinal]
    · simp [hup, ha, hroom]
    · simp [hup, ha, hroom, takeCustody_eq]

/-! ## Management acceptance -/

/-- The room that an MREQ to OWN needs (R101). -/
def State.requestRoom (s : State) (t : Telegram) : Prop :=
  s.requests.length < 4 ∧ s.restart = none ∧ cellsFor t.payload.length ≤ s.free

/-- What management acceptance decides (R101). -/
theorem acceptRequest_spec (x : Side) (t : Telegram) (s : State) :
    (∀ e, s.dup? t.src = some e → e.seq = t.seq → acceptRequest x t s = (.final e.reply, renewDup x e s))
      ∧ (s.isNew t.src t.seq →
        (¬ s.requestRoom t → acceptRequest x t s = (.busy, s))
        ∧ (s.requestRoom t → acceptRequest x t s = (.final .ack, recordFinal x t .ack (storeRequest x t s)))) := by
  have hfull : (Config.requestLimit ≤ s.requests.length ∨ s.restart.isSome ∨ s.free < cellsFor t.payload.length)
      ↔ ¬ s.requestRoom t := by
    simp only [State.requestRoom, Config.requestLimit, not_and_or, not_lt, not_le, Option.isSome_iff_ne_none, ne_eq]
  refine ⟨fun e he hseq => ?_, fun hnew => ?_⟩
  · rw [acceptRequest, answerDuplicate_of_dup x he hseq]
  · rw [acceptRequest, answerDuplicate_of_new x hnew]
    exact ⟨fun h => if_pos (hfull.mpr h), fun h => if_neg fun h' => hfull.mp h' h⟩

/-- Recording a reply changes the duplicate table and its counter only (R89, R90). -/
theorem recordFinal_eq (x : Side) (t : Telegram) (reply : FinalReply) (s : State) :
    ∃ dups counters, recordFinal x t reply s = { s with dups := dups, counters := counters } := by
  by_cases hd : s.dup? t.src = none
  · rw [recordFinal_of_none hd]
    by_cases hl : s.dups.length < 128
    · exact ⟨_, _, by rw [makeDupRoom_of_room hl]; rfl⟩
    · obtain ⟨g, -, -, e⟩ := makeDupRoom_of_full (Nat.le_of_not_lt hl)
      exact ⟨_, _, by rw [e]; rfl⟩
  · exact ⟨_, _, recordFinal_of_some hd x reply⟩

/-- A head that is due to be tested has its claim waiting at the end of the step, or is still to be tested after the step
that is due (R153; log 3). -/
theorem EndsAs.head_tested {u t : State} (h : EndsAs u t) (hhead : u.headDue = true) (hq : u.requests ≠ [])
    (hr : u.restart = none) : (t.due = none → t.respClaim = true) ∧ (t.due ≠ none → t.headDue = true) := by
  refine ⟨fun hd => ?_, fun hd => ?_⟩
  · rw [h.response]
    simp [hd, hhead, hq, hr]
  · rw [h.flags.2]
    simpa [hhead, Option.isSome_iff_ne_none] using hd

/-- A request accepted into an empty queue is the head, which is due to be tested (R102, R153). -/
theorem head_of_accepted (x : Side) (t : Telegram) (kind : ReplyKind) {s : State} (hempty : s.requests = []) :
    let u := replies x t kind (recordFinal x t .ack (storeRequest x t s))
    u.headDue = true ∧ u.requests ≠ [] ∧ u.restart = s.restart := by
  obtain ⟨dups, counters, e⟩ := recordFinal_eq x t .ack (storeRequest x t s)
  simp only [replies, startReply, e]
  simp [storeRequest, hempty]

end Sys2Proof.Machine

namespace Sys2Proof.Settled

open Sys2Proof.Machine

/-- Settles O27: the tests of custody acceptance in their order, and the cells a claim takes. -/
theorem custodyAcceptance : Obligations.CustodyAcceptance := by
  refine ⟨fun dt x bytes s t0 admitted hready hn hrecv hcheck hk hconf => ?_, fun n s => rfl, fun len => ?_,
    fun r e q => ⟨rfl, rfl, rfl⟩⟩
  · intro s2 hover
    obtain ⟨-, -, hi, -⟩ := dst_of_wellFormed hcheck
    have hs : (s2.port x).state ≠ .awaitReply := (learned_awaits_iff s x dt t0.src).not.mpr hrecv.not_awaiting
    have hn2 : s2.numbered = true := numbered_learned hn x dt t0.src
    have hrec (reply : FinalReply) : (recordFinal x t0 reply s2).numbered = true := (numbered_recordFinal ..).trans hn2
    obtain ⟨hdup, hnew⟩ := acceptCustody_spec x t0 admitted s2
    obtain ⟨t, he, hends⟩ := answered_endsAs hready hrecv hcheck hconf (dispose_handsOver hs hk (hi hk) hover)
    refine ⟨t, he, fun e hf hseq => hends _ _ (by rw [hdup e hf hseq]) hn2, fun h => ?_⟩
    obtain ⟨hdown, hbarred, hfull, htaken⟩ := hnew h
    refine ⟨fun hp => hends _ _ (by rw [hdown hp]) (hrec _), fun hp => ⟨fun ha => ?_, fun ha => ⟨fun hroom => ?_,
      fun hdesc hcells => ?_⟩⟩⟩
    · exact hends _ _ (by rw [hbarred hp ha]) (hrec _)
    · have hno : ¬ s2.custodyRoom t0 = true := by
        rw [custodyRoom_iff]
        omega
      exact hends _ _ (by rw [hfull hp ha hno]) hn2
    · have hc := numbered_inCustody x t0 (le_trans (by decide) hdesc) hn2
      refine hends _ (inCustody x t0 s2) ?_ hc
      rw [htaken hp ha ((custodyRoom_iff s2 t0).mpr ⟨hdesc, hcells⟩)]
      exact finish_replies_arbitrate x t0 _ hc
  · unfold cellsFor
    split_ifs <;> omega

/-- Settles O28: the tests of management acceptance in their order, and the head that an accepted request becomes. -/
theorem requestAcceptance : Obligations.RequestAcceptance := by
  intro dt x bytes s t0 hready hn hrecv hcheck hk ho hconf s2 room
  have hs : (s2.port x).state ≠ .awaitReply := (learned_awaits_iff s x dt t0.src).not.mpr hrecv.not_awaiting
  have hn2 : s2.numbered = true := numbered_learned hn x dt t0.src
  have hown : s2.own = s.own := (learned_keepsConfig s x dt t0.src).1
  have hd : dispose x t0 s2 = replyTo t0 (acceptRequest x t0 s2) := by
    rw [dispose_own hs (by rw [hk]; rfl) (ho.trans hown.symm), toOwn, hk]
  obtain ⟨hdup, hnew⟩ := acceptRequest_spec x t0 s2
  obtain ⟨t, he, hends⟩ := answered_endsAs hready hrecv hcheck hconf hd
  refine ⟨t, he, fun e hf hseq => hends _ _ (by rw [hdup e hf hseq]) hn2,
    fun h hroom => hends _ _ (by rw [(hnew h).1 hroom]) hn2, fun h hroom => ?_⟩
  have haccepted : EndsAs (replies x t0 (.final .ack) (recordFinal x t0 .ack (storeRequest x t0 s2))) t :=
    hends _ _ (by rw [(hnew h).2 hroom]) ((numbered_recordFinal ..).trans hn2)
  refine ⟨haccepted, fun hempty => ?_⟩
  obtain ⟨hhead, hq, hr⟩ := head_of_accepted x t0 (.final .ack) hempty
  exact haccepted.head_tested hhead hq (hr.trans hroom.2.1)

end Sys2Proof.Settled
end

section
/-! SUPPORT. The outcomes of an attempt (R115 to R118, R122), and the statement on them. -/

namespace Sys2Proof.Machine

section
variable {r : Record}

/-! ## BUSY -/

theorem outcomeBusy_unmarked (h : r.mark = none) (s : State) :
    outcomeBusy r s =
      if r.busyLimit < r.busyCount + 1 then endUndelivered { r with busyCount := r.busyCount + 1 } .busyLimit s
      else holdRecord { r with busyCount := r.busyCount + 1 } s.params.busyHold s := by
  simp only [outcomeBusy, h]

theorem outcomeBusy_marked {m : Mark} (h : r.mark = some m) (s : State) :
    outcomeBusy r s = endUndelivered { r with busyCount := r.busyCount + 1 } m.reason s := by
  simp only [outcomeBusy, h]

/-! ## REJECT -/

theorem outcomeReject_unmarked (h : r.mark = none) (reason : Byte) (s : State) :
    outcomeReject r reason s = endUndelivered { r with rejectReason := some reason } .rejected s := by
  simp only [outcomeReject, h]

theorem outcomeReject_marked {m : Mark} (h : r.mark = some m) (reason : Byte) (s : State) :
    outcomeReject r reason s = endUndelivered r m.reason s := by
  simp only [outcomeReject, h]

/-! ## No reply and NO_ACCESS -/

theorem outcomeFailed_unmarked (h : r.mark = none) (why : EndReason) (s : State) :
    outcomeFailed r why s =
      if r.retryLimit ≤ r.attempts + 1 then endUndelivered { r with attempts := r.attempts + 1 } why s
      else holdRecord { r with attempts := r.attempts + 1 } s.params.retryInterval s := by
  simp only [outcomeFailed, h]

theorem outcomeFailed_marked {m : Mark} (h : r.mark = some m) (why : EndReason) (s : State) :
    outcomeFailed r why s = endUndelivered { r with attempts := r.attempts + 1 } m.reason s := by
  simp only [outcomeFailed, h]

end

end Sys2Proof.Machine

namespace Sys2Proof.Settled

open Sys2Proof.Machine

/-- Settles O34: each outcome by the record's mark and, without one, by its limit. -/
theorem slotOutcomes : Obligations.SlotOutcomes := by
  refine ⟨fun r s => ⟨fun hm hlim => ?_, fun hm hlim => ?_, fun m hm => outcomeBusy_marked hm s,
    fun reason hm => outcomeReject_unmarked hm reason s, fun reason m hm => outcomeReject_marked hm reason s,
    fun why hm hlim => ?_, fun why hm hlim => ?_, fun why m hm => outcomeFailed_marked hm why s⟩, rfl, rfl, rfl⟩
  · exact (outcomeBusy_unmarked hm s).trans (if_neg (Nat.not_lt.mpr hlim))
  · exact (outcomeBusy_unmarked hm s).trans (if_pos hlim)
  · exact (outcomeFailed_unmarked hm why s).trans (if_neg (Nat.not_le.mpr hlim))
  · exact (outcomeFailed_unmarked hm why s).trans (if_pos hlim)

end Sys2Proof.Settled
end

section
/-! SUPPORT. HOLD_END (R119) and LIFETIME_EXPIRY (R120, R121): what each does to its record and to the port that has chosen it,
and the statements on them. -/

namespace Sys2Proof.Machine

@[simp] theorem port_reach (m : Nat) (x : Side) (s : State) : (reach m s).port x = s.port x := port_congr rfl rfl x

/-! ## HOLD_END -/

theorem holdEnds_of_waiting {s : State} {n m : Nat} {r : Record} (hr : s.record? n = some r) (hw : r.state = .waiting m) :
    holdEnds n s = finish (updateRecord n (fun q => { q with state := .queued }) (reach m s)) := by
  simp only [holdEnds, hr, hw]

/-! ## What a withdrawal cause does to a record -/

section
variable {s : State} {r : Record}

/-- A record that waits for the line is withdrawn at once (R121). -/
theorem withdrawal_of_off_line (hm : r.mark = none) (h : r.state = .queued ∨ ∃ m, r.state = .waiting m) :
    s.withdrawal r = .atOnce := by
  rcases h with h | ⟨m, h⟩ <;> simp [State.withdrawal, hm, h]

/-- So is a record that is SENDING while its port is not (R121). -/
theorem withdrawal_of_chosen (hm : r.mark = none) (h : r.state = .sending) (hp : (s.port r.outSide).state ≠ .sending) :
    s.withdrawal r = .atOnce := by
  simp [State.withdrawal, hm, h, hp]

/-- A record on the line, or with its reply awaited, is marked (R121). -/
theorem withdrawal_of_on_line (hm : r.mark = none)
    (h : (r.state = .sending ∧ (s.port r.outSide).state = .sending) ∨ r.state = .awaiting) :
    s.withdrawal r = .marked := by
  rcases h with ⟨h, hp⟩ | h
  · simp [State.withdrawal, hm, h, hp]
  · simp [State.withdrawal, hm, h]

/-- A record keeps its first mark (R121). -/
theorem withdrawal_of_marked {m : Mark} (hm : r.mark = some m) : s.withdrawal r = .kept := by
  simp [State.withdrawal, hm]

theorem withdraw_of_atOnce (h : s.withdrawal r = .atOnce) (cause : Mark) :
    withdraw r cause s = endUndelivered r cause.reason (dropRecordChoice r s) := by
  simp only [withdraw, h]

theorem withdraw_of_marked (h : s.withdrawal r = .marked) (cause : Mark) :
    withdraw r cause s = updateRecord r.number (fun q => { q with mark := some cause }) s := by
  simp only [withdraw, h]

theorem withdraw_of_kept (h : s.withdrawal r = .kept) (cause : Mark) : withdraw r cause s = s := by
  simp only [withdraw, h]

/-! ## The port that has chosen a withdrawn record -/

theorem Port.dropChoice_of_defer {p : Port} (h : p.state = .defer) :
    p.dropChoice = { p with state := .idle, choice := none, lossCount := 0, deferral := none } := by
  simp [Port.dropChoice, Port.noChoice, h]

theorem Port.dropChoice_of_replying {p : Port} (h : p.state = .replying) :
    p.dropChoice =
      { p with state := .replying, choice := none, lossCount := 0, deferral := none, returnState := some .idle } := by
  simp [Port.dropChoice, Port.noChoice, h]

/-- A chosen record that is withdrawn at once ends after its port has dropped it (R121, R32). -/
theorem withdraw_of_chosen (hw : s.withdrawal r = .atOnce) (hc : (s.port r.outSide).choice = some (.record r.number))
    (cause : Mark) :
    withdraw r cause s = endUndelivered r cause.reason (setPort r.outSide (s.port r.outSide).dropChoice s) := by
  rw [withdraw_of_atOnce hw, dropRecordChoice, if_pos hc]

/-- A record that no port has chosen ends with the ports as they were (R121). -/
theorem withdraw_of_not_chosen (hw : s.withdrawal r = .atOnce)
    (hc : (s.port r.outSide).choice ≠ some (.record r.number)) (cause : Mark) :
    withdraw r cause s = endUndelivered r cause.reason s := by
  rw [withdraw_of_atOnce hw, dropRecordChoice, if_neg hc]

end

/-! ## LIFETIME_EXPIRY -/

/-- The step is a withdrawal with the reason EXPIRED at the record's deadline (R120, R121). -/
theorem lifetimeExpiry_endsAs {s : State} {n : Nat} {r : Record} (hready : s.ready = true) (hn : s.numbered = true)
    (hr : s.record? n = some r) :
    ∃ t, exec (.lifetimeExpiry n) s = .next t ∧ EndsAs (withdraw r .expired (reach r.deadline s)) t :=
  fromTimer_endsAs hready (by simp only [lifetimeEnds, hr]) (numbered_withdraw r .expired (s := reach r.deadline s) hn)

end Sys2Proof.Machine

namespace Sys2Proof.Settled

open Sys2Proof.Machine

/-- Settles O37: the WAITING record is QUEUED when its hold ends. -/
theorem holdEnd : Obligations.HoldEnd := by
  intro n m r s hready hn hr hw
  exact fromTimer_endsAs hready (holdEnds_of_waiting hr hw)
    (numbered_updateRecord (s := reach m s) n _ (fun _ hq => hq) hn)

/-- Settles O38: the withdrawal at the deadline by the record's mark and state and by the state of its port. -/
theorem lifetimeExpiry : Obligations.LifetimeExpiry := by
  intro n r s hready hn hr s1 p chosen idle
  obtain ⟨t, ht, hends⟩ := lifetimeExpiry_endsAs hready hn hr
  obtain rfl : r.number = n := (record?_mem hr).2
  have hp : (reach r.deadline s).port r.outSide = p := port_reach ..
  refine ⟨t, ht, fun hm hoff hc => ?_, fun hm hs hc hd => ?_, fun hm hs hc hd => ?_, fun hm hon => ?_, fun m hm => ?_⟩
  · rwa [withdraw_of_not_chosen (withdrawal_of_off_line hm hoff) (hp ▸ hc)] at hends
  · rwa [withdraw_of_chosen (withdrawal_of_chosen hm hs (by simp [hp, hd])) (hp ▸ hc), hp,
      Port.dropChoice_of_defer hd] at hends
  · rwa [withdraw_of_chosen (withdrawal_of_chosen hm hs (by simp [hp, hd])) (hp ▸ hc), hp,
      Port.dropChoice_of_replying hd] at hends
  · rwa [withdraw_of_marked (withdrawal_of_on_line hm (hp ▸ hon))] at hends
  · rwa [withdraw_of_kept (withdrawal_of_marked hm)] at hends

end Sys2Proof.Settled
end

section
/-! SUPPORT. What the end of one record leaves: the NOTICE of a FORWARD record (R124, R125), the release of a delivered record
and of a failed RELAY record (R114, R126), and the statements on them. -/

namespace Sys2Proof.Machine

/-- Counting once advances the counter of that name by one and leaves the others (R171). -/
theorem counter_countBy_one {s v : State} (hv : v.counters = s.counters) (d c : Counter) :
    (countBy d 1 v).counter c = if c = d then saturatingAdd (s.counter c) 1 else s.counter c := by
  rw [counter_countBy]
  by_cases h : c = d <;> simp [h, State.counter, hv]

/-! ## NOTICE conversion -/

/-- The descriptor of a FORWARD record that ended undelivered holds its NOTICE (R124). -/
theorem record?_endUndelivered_forward {s : State} {r r0 : Record} (hr : s.record? r.number = some r0)
    (ho : r.origin = .forward) (why : EndReason) :
    (endUndelivered r why s).record? r.number = some (noticeRecord r why s) := by
  have h := record?_updateRecord s r.number r.number (fun _ => noticeRecord r why s) (fun _ _ => rfl)
  rw [if_pos rfl, hr] at h
  simpa only [endUndelivered, ho, State.record?, convertToNotice_records, Option.map_some] using h

/-- The payload of a NOTICE for a REJECT carries the reason that came with it (R125, R185). -/
theorem noticePayload_rejected {r : Record} {b : Byte} (h : r.rejectReason = some b) :
    noticePayload r .rejected = [BitVec.ofNat 8 (r.destination / 256), BitVec.ofNat 8 r.destination, r.seq.setWidth 8,
      r.kind.code.setWidth 8, 0x04#8, BitVec.ofNat 8 r.attempts, BitVec.ofNat 8 r.busyCount, b] := by
  simp [noticePayload, h, beBytes, EndReason.code]

/-- The payload of any other NOTICE ends with the busy count (R125, R185). -/
theorem noticePayload_of_not_rejected {why : EndReason} (h : why ≠ .rejected) (r : Record) :
    noticePayload r why = [BitVec.ofNat 8 (r.destination / 256), BitVec.ofNat 8 r.destination, r.seq.setWidth 8,
      r.kind.code.setWidth 8, why.code, BitVec.ofNat 8 r.attempts, BitVec.ofNat 8 r.busyCount] := by
  simp [noticePayload, h, beBytes]

/-! ## Delivery, by the origin of the record -/

/-- The Event Unit's account after a delivery: as after a failure, with the sent set reported (R176). -/
theorem tellEventEnd_delivered_eq (s : State) :
    tellEventEnd true s = { tellEventEnd false s with reported := s.eventRecord.elim s.reported EventFlight.sent } := by
  unfold tellEventEnd
  cases s.eventRecord <;> rfl

section
variable {r : Record} (s : State)

theorem deliver_forward (h : r.origin = .forward) : deliver r s = countBy .delivered 1 (releaseRecord r s) := by
  rw [deliver, h]
  rfl

theorem deliver_response (h : r.origin = .relay .response) :
    deliver r s = { releaseRecord r s with
      restartDue := s.restartDue || s.restart.any (fun p => p.record == r.number) } := by
  rw [deliver, h]
  exact tellResponseEnd_eq r.number _

theorem deliver_notice (h : r.origin = .relay .notice) : deliver r s = releaseRecord r s := by
  rw [deliver, h]

theorem deliver_event (h : r.origin = .relay .event) :
    deliver r s = { releaseRecord r s with
      reported := s.eventRecord.elim s.reported EventFlight.sent
      eventRecord := none
      repeatTimer := if s.eventRecord.isSome then .running (s.now + s.params.eventRepeat * Config.second)
        else s.repeatTimer } := by
  rw [deliver, h]
  refine (tellEventEnd_delivered_eq (releaseRecord r s)).trans ?_
  rw [tellEventEnd_failed_eq]
  rfl

end

/-! ## Release -/

/-- What the release of a record leaves, however its end is counted, latched and reported (R79, R106, R126). -/
structure Released (r : Record) (s u : State) : Prop where
  keeps : KeepsAtRecordEnd s u
  records : u.records = (removeRecord r.number s).records
  free : u.free = s.free + r.cells
  ownSeq : u.ownSeq = s.ownSeq
  claimsDue : u.claimsDue = true
  restartDue : u.restartDue = (s.restartDue
    || r.origin == .relay .response && s.restart.any (fun p => p.record == r.number))
  reported : r.origin ≠ .relay .event ∨ s.eventRecord = none → u.reported = s.reported
  eventRecord : u.eventRecord = if r.origin = .relay .event then none else s.eventRecord
  repeatTimer : u.repeatTimer = if r.origin = .relay .event ∧ s.eventRecord.isSome
    then .running (s.now + s.params.eventRepeat * 1000000) else s.repeatTimer

theorem released_deliver (r : Record) (s : State) : Released r s (deliver r s) := by
  have hk := deliver_keeps r s
  have hr := deliver_records r s
  have hf := deliver_free r s
  rcases ho : r.origin with _ | (_ | _ | _)
  · rw [deliver_forward s ho] at hk hr hf ⊢
    constructor <;> simp_all [releaseRecord]
  · rw [deliver_response s ho] at hk hr hf ⊢
    constructor <;> simp_all [releaseRecord]
  · rw [deliver_event s ho] at hk hr hf ⊢
    constructor <;> simp_all [releaseRecord, Config.second]
  · rw [deliver_notice s ho] at hk hr hf ⊢
    constructor <;> simp_all [releaseRecord]

/-- A RELAY record that ends undelivered is released (R126). -/
theorem released_endUndelivered {r : Record} (ho : r.origin ≠ .forward) (why : EndReason) (s : State) :
    Released r s (endUndelivered r why s) := by
  have he := Ended.one r why s
  refine ⟨he.keeps, ?_, ?_, ?_, ?_, ?_, fun _ => he.reported, ?_, ?_⟩
  · unfold endUndelivered
    split
    · exact absurd ‹_› ho
    · exact failRelay_records r _ s
  · simp [he.free, ho]
  · simp [he.ownSeq, endedOf_singleton, ho]
  · simp [he.claimsDue, ho]
  · simp [he.restartDue]
  · simp [he.eventRecord]
  · simp [he.repeatTimer, Config.second]

namespace Released

variable {r : Record} {s u : State}

/-- The descriptor is free and every other record stays (R106). -/
theorem record? (h : Released r s u) (hn : s.numbered = true) (n : Nat) :
    u.record? n = if n = r.number then none else s.record? n := by
  rw [← record?_removeRecord hn r.number n, State.record?, h.records]
  rfl

theorem length_records (h : Released r s u) (hn : s.numbered = true) {r0 : Record} (hr : s.record? r.number = some r0) :
    u.records.length + 1 = s.records.length := by
  obtain ⟨hmem, hnum⟩ := record?_mem hr
  rw [h.records, removeRecord_records, ← hnum]
  exact length_filter_key_ne ((numbered_iff s).mp hn).1 hmem

/-- Another record's end tells no restart anything (R126, R167). -/
theorem restartDue_kept (h : Released r s u)
    (hr : r.origin ≠ .relay .response ∨ ∀ p, s.restart = some p → p.record ≠ r.number) :
    u.restartDue = s.restartDue := by
  rw [h.restartDue]
  rcases hr with ho | hp
  · simp [ho]
  · cases hs : s.restart with
    | none => simp
    | some p => simp [hp p hs]

/-- The end of the response that a restart waits for makes the restart due (R126, R167). -/
theorem restartDue_told (h : Released r s u) (ho : r.origin = .relay .response) {p : RestartPending}
    (hp : s.restart = some p) (hr : p.record = r.number) : u.restartDue = true := by
  simp [h.restartDue, ho, hp, hr]

/-- Without an EVENT record that ends, the Event Unit's account stands (R176). -/
theorem event_kept (h : Released r s u) (he : r.origin ≠ .relay .event ∨ s.eventRecord = none) :
    u.reported = s.reported ∧ u.eventRecord = s.eventRecord ∧ u.repeatTimer = s.repeatTimer := by
  refine ⟨h.reported he, ?_, ?_⟩
  · rw [h.eventRecord]
    rcases he with ho | hs <;> simp_all
  · rw [h.repeatTimer]
    rcases he with ho | hs <;> simp_all

/-- The Event Unit is told of the end of its EVENT record, and the repeat timer runs (R176). -/
theorem event_told (h : Released r s u) (ho : r.origin = .relay .event) {g : EventFlight} (hg : s.eventRecord = some g) :
    u.eventRecord = none ∧ u.repeatTimer = .running (s.now + s.params.eventRepeat * 1000000) := by
  rw [h.eventRecord, h.repeatTimer]
  simp [ho, hg]

end Released

/-! ## What is counted, latched and reported -/

theorem deliver_counter (r : Record) (s : State) (c : Counter) : (deliver r s).counter c =
    if c = .delivered ∧ r.origin = .forward then saturatingAdd (s.counter c) 1 else s.counter c := by
  rcases ho : r.origin with _ | (_ | _ | _)
  · rw [deliver_forward s ho]
    simpa using counter_countBy_one (s := s) (v := releaseRecord r s) rfl .delivered c
  · rw [deliver_response s ho]
    exact (if_neg (by simp)).symm
  · rw [deliver_event s ho]
    exact (if_neg (by simp)).symm
  · rw [deliver_notice s ho]
    exact (if_neg (by simp)).symm

theorem deliver_latched (r : Record) (s : State) : (deliver r s).latched = s.latched := by
  rcases ho : r.origin with _ | (_ | _ | _)
  · rw [deliver_forward s ho]
    rfl
  · rw [deliver_response s ho]
    rfl
  · rw [deliver_event s ho]
    rfl
  · rw [deliver_notice s ho]
    rfl

/-- The sent set of a delivered EVENT record is reported (R176). -/
theorem deliver_reported {r : Record} {s : State} (ho : r.origin = .relay .event) {g : EventFlight}
    (hg : s.eventRecord = some g) : (deliver r s).reported = g.sent := by
  rw [deliver_event s ho, hg]
  rfl

end Sys2Proof.Machine

namespace Sys2Proof.Settled

open Sys2Proof.Machine

/-- Settles O35: the NOTICE in the failed record's descriptor, its payload by the reason, and what the conversion leaves. -/
theorem noticeConversion : Obligations.NoticeConversion := by
  intro r r0 why s hn hr ho u
  have he : Ended [r] s u := Ended.one r why s
  have hu : u = countBy .noticesCreated 1 _ := endUndelivered_forward why s ho
  obtain ⟨hconfig, htables, hqueues, hmanagement, hrest, hnow, hA, hB, hmask, hstation, hresp, hclaim, hhead⟩ := he.keeps
  refine ⟨⟨noticeRecord r why s, record?_endUndelivered_forward hr ho why, rfl, rfl, rfl, rfl, rfl, rfl, rfl, rfl,
    fun p hp => newStamp_spec hp, rfl, rfl, rfl, rfl, rfl, rfl, rfl, rfl, fun b hw hb => ?_,
    fun hw => noticePayload_of_not_rejected hw r⟩, fun n h => record?_endUndelivered_other r why hn h, ?_, ?_, ?_,
    fun c => ?_, fun hc => ?_, fun hc => ?_, hresp, hclaim, ?_, hhead, hconfig, htables, hqueues, hmanagement,
    ⟨?_, hmask, he.reported, hstation, ?_, ?_⟩, hrest, hA, hB, hnow⟩
  · subst hw
    exact noticePayload_rejected hb
  · simp [hu]
  · simp [he.ownSeq, endedOf_singleton, ho]
  · simp [he.free, ho]
  · rw [hu]
    exact counter_countBy_one rfl .noticesCreated c
  · simp [he.claimsDue, hc]
  · simp [he.claimsDue, ho, Nat.not_lt.mpr hc]
  · simp [he.restartDue, ho]
  · simp [he.latched, lossEvents, endedOf_singleton, ho]
  · simp [he.eventRecord, ho]
  · simp [he.repeatTimer, ho]

/-- Settles O36: the release, which delivery and the failure of a RELAY record share, and what each role is told beyond it. -/
theorem recordReleased : Obligations.RecordReleased := by
  intro r r0 why s hn hr d f
  have hd : Released r s d := released_deliver r s
  have hf : r.origin ≠ .forward → Released r s f := fun ho => released_endUndelivered ho why s
  have hrel : ∀ {role}, r.origin = .relay role → Released r s f := fun h => hf (by simp [h])
  have hf_response : r.origin = .relay .response → f = _ := endUndelivered_response why s
  have hf_notice : r.origin = .relay .notice → f = _ := endUndelivered_notice why s
  have hf_event : r.origin = .relay .event → f = _ := endUndelivered_event why s
  refine ⟨fun u hu => ?_, deliver_counter r s, deliver_latched r s,
    fun ho => ⟨congrArg State.latched (hf_response ho), fun c => ?_⟩,
    fun ho => ⟨congrArg State.latched (hf_notice ho), fun c => ?_⟩,
    fun ho => ⟨(congrArg State.latched (hf_event ho)).trans rfl,
      (congrArg State.counters (hf_event ho)).trans rfl⟩, fun p ho hp hrec =>
    ⟨hd.restartDue_told ho hp hrec, (hrel ho).restartDue_told ho hp hrec⟩, fun g ho hg =>
    ⟨deliver_reported ho hg, (Ended.one r why s).reported, ?_⟩⟩
  · have h : Released r s u := by
      rcases hu with rfl | ⟨rfl, ho⟩
      · exact hd
      · exact hf ho
    obtain ⟨hconfig, htables, hqueues, hmanagement, hrest, hnow, hA, hB, hmask, hstation, hresp, hclaim, hhead⟩ := h.keeps
    exact ⟨(h.record? hn _).trans (if_pos rfl), fun n hne => (h.record? hn n).trans (if_neg hne), h.length_records hn hr,
      h.free, h.ownSeq, hconfig, htables, hqueues, hmanagement, hrest, hA, hB, hnow, hmask, hstation, h.claimsDue, hresp,
      hclaim, hhead, h.event_kept, h.restartDue_kept⟩
  · rw [hf_response ho]
    exact counter_countBy_one rfl .responsesLost c
  · rw [hf_notice ho]
    exact counter_countBy_one rfl .noticesLost c
  · rintro u (rfl | rfl)
    · exact hd.event_told ho hg
    · exact (hrel ho).event_told ho hg

end Sys2Proof.Settled
end

section
/-! SUPPORT. The commit merge (R71): several entries put in an ordered table, the order in which LEARNED entries go, and the
merged table. -/

namespace Sys2Proof.Machine

/-! ## Putting several entries -/

section
variable {α : Type} {key : α → Nat}

/-- The entries of an ordered table after `a` has been put: `a`, and the old ones with other keys. -/
theorem mem_insertBy_iff {a b : α} {l : List α} (h : ascending key l = true) :
    b ∈ insertBy key a l ↔ b = a ∨ (b ∈ l ∧ key b ≠ key a) := by
  constructor
  · intro hb
    by_cases hk : key b = key a
    · exact .inl (ascending_unique (ascending_insertBy a h) hb (mem_insertBy_self a l) hk)
    · exact (mem_insertBy hb).imp id fun hl => ⟨hl, hk⟩
  · rintro (rfl | ⟨hb, hk⟩)
    · exact mem_insertBy_self b l
    · exact mem_insertBy_of_mem hb hk

/-- Several entries are put one after another. -/
def insertAll (key : α → Nat) (as l : List α) : List α := as.foldl (fun l a => insertBy key a l) l

theorem ascending_insertAll (as : List α) {l : List α} (h : ascending key l = true) :
    ascending key (insertAll key as l) = true := by
  induction as generalizing l with
  | nil => exact h
  | cons a as ih => exact ih (ascending_insertBy a h)

/-- Entries in order whose keys the table does not hold all find a place, and every old entry keeps its own. -/
theorem insertAll_of_new {as l : List α} (has : ascending key as = true) (hl : ascending key l = true)
    (hnew : ∀ a ∈ as, ∀ b ∈ l, key b ≠ key a) :
    (insertAll key as l).length = l.length + as.length ∧ ∀ b, b ∈ insertAll key as l ↔ b ∈ l ∨ b ∈ as := by
  induction as generalizing l with
  | nil => simp [insertAll]
  | cons a as ih =>
    obtain ⟨hlt, has⟩ := (ascending_cons a as).mp has
    have ha : ∀ b ∈ l, key b ≠ key a := hnew a (by simp)
    have hnew' : ∀ c ∈ as, ∀ b ∈ insertBy key a l, key b ≠ key c := fun c hc b hb => by
      rcases mem_insertBy hb with rfl | hb
      · exact (hlt c hc).ne
      · exact hnew c (by simp [hc]) b hb
    obtain ⟨hlen, hmem⟩ := ih has (ascending_insertBy a hl) hnew'
    refine ⟨hlen.trans ?_, fun b => (hmem b).trans ?_⟩
    · rw [length_insertBy_of_new a ha, List.length_cons]
      omega
    · rw [mem_insertBy_iff hl, List.mem_cons]
      have := ha b
      tauto

end

/-! ## The LEARNED entries that go -/

/-- The entry `e` keeps its place longer than `f` (R71, step 2). -/
def StationEntry.outlasts (e f : StationEntry) : Prop :=
  e.idle?.getD 0 < f.idle?.getD 0 ∨ (e.idle?.getD 0 = f.idle?.getD 0 ∧ e.station < f.station)

theorem goesFirst_iff (e f : StationEntry) : goesFirst e f = true ↔ f.outlasts e := by
  simp [goesFirst, StationEntry.outlasts]

theorem StationEntry.outlasts_of_not {e f : StationEntry} (h : ¬ e.outlasts f) (hne : f.station ≠ e.station) :
    f.outlasts e := by
  unfold StationEntry.outlasts at *
  omega

/-- Of several entries the one that goes first outlasts none (R71, step 2). -/
theorem firstToGo_spec {l : List StationEntry} (h : l ≠ []) :
    ∃ g ∈ l, firstToGo l = some g ∧ ∀ f ∈ l, ¬ g.outlasts f := by
  induction l with
  | nil => exact absurd rfl h
  | cons e l ih =>
    by_cases hl : l = []
    · subst hl
      exact ⟨e, by simp, rfl, by simp [StationEntry.outlasts]⟩
    · obtain ⟨g, hmem, hg, hlast⟩ := ih hl
      have heg := goesFirst_iff g e
      simp only [firstToGo, hg]
      split
      · rename_i hfirst
        refine ⟨g, by simp [hmem], rfl, fun f hf => ?_⟩
        rcases List.mem_cons.mp hf with rfl | hf
        · have := heg.mp hfirst
          unfold StationEntry.outlasts at *
          omega
        · exact hlast f hf
      · rename_i hfirst
        refine ⟨e, by simp, rfl, fun f hf => ?_⟩
        have hge := mt heg.mpr hfirst
        rcases List.mem_cons.mp hf with rfl | hf
        · unfold StationEntry.outlasts
          omega
        · have := hlast f hf
          unfold StationEntry.outlasts at *
          omega

/-- What the removal of `n` entries leaves of LEARNED entries in order: so many fewer of them, each outlasting every one that
has gone (R71, step 2). -/
theorem dropOverflow_spec (n : Nat) {l : List StationEntry} (h : ascending StationEntry.station l = true) :
    ascending StationEntry.station (dropOverflow n l) = true ∧ dropOverflow n l ⊆ l
      ∧ (dropOverflow n l).length = l.length - n
      ∧ ∀ e ∈ dropOverflow n l, ∀ f ∈ l, f ∉ dropOverflow n l → e.outlasts f := by
  induction n generalizing l with
  | zero => exact ⟨h, List.Subset.refl l, rfl, fun _ _ f hf hno => absurd hf hno⟩
  | succ n ih =>
    by_cases hl : l = []
    · subst hl
      simp [dropOverflow, firstToGo, ascending]
    · obtain ⟨g, hg, hfirst, hlast⟩ := firstToGo_spec hl
      obtain ⟨hasc, hsub, hlen, hkeep⟩ := ih (ascending_filter (fun f => f.station != g.station) h)
      have hrest : dropOverflow (n + 1) l = dropOverflow n (l.filter fun f => f.station != g.station) := by
        rw [dropOverflow, hfirst]
      have hone := length_filter_key_ne h hg
      rw [hrest]
      refine ⟨hasc, fun e he => List.mem_of_mem_filter (hsub he), by omega, fun e he f hf hno => ?_⟩
      by_cases hfg : f.station = g.station
      · obtain rfl := ascending_unique h hf hg hfg
        obtain ⟨hel, hne⟩ := List.mem_filter.mp (hsub he)
        exact StationEntry.outlasts_of_not (hlast e hel) (by simpa using hne)
      · exact hkeep e he f (List.mem_filter.mpr ⟨hf, by simpa using hfg⟩) hno

/-! ## The merged table -/

/-- The LEARNED entries that no staged entry displaces (R71, step 1). -/
def learnedBeside (staged : List StagedEntry) (table : List StationEntry) : List StationEntry :=
  table.filter (fun e => !e.isLoaded && staged.all (fun g => g.station != e.station))

/-- The LEARNED entries that keep a place beside the staged ones (R71, step 2). -/
def learnedKept (staged : List StagedEntry) (table : List StationEntry) : List StationEntry :=
  dropOverflow (staged.length + (learnedBeside staged table).length - 256) (learnedBeside staged table)

theorem mergeStations_eq (staged : List StagedEntry) (table : List StationEntry) :
    mergeStations staged table
      = insertAll StationEntry.station (learnedKept staged table) (staged.map StagedEntry.loaded) := by
  rw [learnedKept, ← List.length_map (as := staged) StagedEntry.loaded]
  rfl

theorem ascending_loaded {staged : List StagedEntry} (h : ascending StagedEntry.station staged = true) :
    ascending StationEntry.station (staged.map StagedEntry.loaded) = true := by
  induction staged with
  | nil => rfl
  | cons g staged ih =>
    obtain ⟨hlt, hst⟩ := (ascending_cons g staged).mp h
    refine (ascending_cons ..).mpr ⟨fun e he => ?_, ih hst⟩
    obtain ⟨f, hf, rfl⟩ := List.mem_map.mp he
    exact hlt f hf

/-- The LEARNED entries that keep a place: all of them when there is room, else as many as there is room for, and of those
beside the staged entries the ones that are to keep it longer (R71, step 2). -/
theorem learnedKept_spec (staged : List StagedEntry) {table : List StationEntry}
    (ht : ascending StationEntry.station table = true) :
    ascending StationEntry.station (learnedKept staged table) = true
      ∧ learnedKept staged table ⊆ learnedBeside staged table
      ∧ (learnedKept staged table).length = (learnedBeside staged table).length
          - (staged.length + (learnedBeside staged table).length - 256)
      ∧ (staged.length + (learnedBeside staged table).length ≤ 256 → learnedKept staged table = learnedBeside staged table)
      ∧ ∀ e ∈ learnedKept staged table, ∀ f ∈ learnedBeside staged table, f ∉ learnedKept staged table →
          e.outlasts f := by
  have hbeside : ascending StationEntry.station (learnedBeside staged table) = true := ascending_filter _ ht
  obtain ⟨hasc, hsub, hlen, hkeep⟩ :=
    dropOverflow_spec (staged.length + (learnedBeside staged table).length - 256) hbeside
  refine ⟨hasc, hsub, hlen, fun hroom => ?_, hkeep⟩
  rw [learnedKept, Nat.sub_eq_zero_of_le hroom]
  rfl

/-- The merged table: the staged entries as LOADED and the LEARNED ones that keep a place, each once (R71). -/
theorem mergeStations_spec {staged : List StagedEntry} {table : List StationEntry}
    (hs : ascending StagedEntry.station staged = true) (ht : ascending StationEntry.station table = true) :
    ascending StationEntry.station (mergeStations staged table) = true
      ∧ (mergeStations staged table).length = staged.length + (learnedKept staged table).length
      ∧ ∀ e, e ∈ mergeStations staged table ↔ (∃ g ∈ staged, g.loaded = e) ∨ e ∈ learnedKept staged table := by
  obtain ⟨hasc, hsub, -⟩ := learnedKept_spec staged ht
  have hnew : ∀ a ∈ learnedKept staged table, ∀ b ∈ staged.map StagedEntry.loaded, b.station ≠ a.station := by
    intro a ha b hb
    obtain ⟨g, hg, rfl⟩ := List.mem_map.mp hb
    have := (List.mem_filter.mp (hsub ha)).2
    simp only [Bool.and_eq_true, List.all_eq_true, bne_iff_ne] at this
    exact this.2 g hg
  obtain ⟨hlen, hmem⟩ := insertAll_of_new hasc (ascending_loaded hs) hnew
  rw [mergeStations_eq]
  exact ⟨ascending_insertAll _ (ascending_loaded hs), by simpa using hlen, by simpa using hmem⟩

end Sys2Proof.Machine
end

section
/-! SUPPORT. What never touches parameters, tables and queues: the arbiters, the records' ends, the end of a step and the
timers and lines that only reach ports and records. -/

namespace Sys2Proof.Machine

/-- All that the laws of the tables speak of. -/
def State.tabled (s : State) : (Nat × Params) × (List StationEntry × List DupEntry)
    × (List PlainEntry × List PlainEntry) × List Request × Option Session :=
  ((s.own, s.params), (s.stations, s.dups), (s.queueA, s.queueB), s.requests, s.session)

theorem tabled_of_keeps {s t : State} (hc : KeepsConfig s t) (ht : KeepsTables s t) (hq : KeepsPlainQueues s t)
    (hm : KeepsManagement s t) : t.tabled = s.tabled := by
  simp only [KeepsConfig, KeepsTables, KeepsPlainQueues, KeepsManagement] at hc ht hq hm
  simp only [State.tabled, hc, ht, hq, hm]

theorem KeepsAtEnd.tabled {s t : State} (h : KeepsAtEnd s t) : t.tabled = s.tabled := by
  obtain ⟨hc, ht, hq, hm, -⟩ := h
  exact tabled_of_keeps hc ht hq hm

theorem KeepsAtRecordEnd.tabled {s t : State} (h : KeepsAtRecordEnd s t) : t.tabled = s.tabled :=
  tabled_of_keeps h.config h.tables h.queues h.management

section
variable (s : State) (x : Side) (n : Nat) (r : Record)

/-! ## Single updates -/

@[simp] theorem tabled_elapse (dt : Nat) : (elapse dt s).tabled = s.tabled := rfl
@[simp] theorem tabled_reach (m : Nat) : (reach m s).tabled = s.tabled := rfl
@[simp] theorem tabled_latch (e : Event) : (latch e s).tabled = s.tabled := rfl
@[simp] theorem tabled_countBy (c : Counter) : (countBy c n s).tabled = s.tabled := rfl
@[simp] theorem tabled_setPort (p : Port) : (setPort x p s).tabled = s.tabled := by cases x <;> rfl
@[simp] theorem tabled_claimCells : (claimCells n s).tabled = s.tabled := rfl
@[simp] theorem tabled_updateRecord (f : Record → Record) : (updateRecord n f s).tabled = s.tabled := rfl
@[simp] theorem tabled_insertRecord : (insertRecord r s).tabled = s.tabled := rfl

/-! ## The arbiters and the ends of records -/

@[simp] theorem tabled_arbitrate : (arbitrate x s).tabled = s.tabled := (arbitrate_keeps x s).1.tabled
@[simp] theorem tabled_arbitrateBoth : (arbitrateBoth s).tabled = s.tabled := by simp [arbitrateBoth]
@[simp] theorem tabled_endUndelivered (why : EndReason) : (endUndelivered r why s).tabled = s.tabled :=
  (endUndelivered_keeps r why s).tabled
@[simp] theorem tabled_deliver : (deliver r s).tabled = s.tabled := (deliver_keeps r s).tabled
@[simp] theorem tabled_holdRecord (ms : Nat) : (holdRecord r ms s).tabled = s.tabled := rfl

@[simp] theorem tabled_withdraw (cause : Mark) : (withdraw r cause s).tabled = s.tabled := by
  rcases withdraw_cases r cause s with ⟨-, e⟩ | ⟨-, e⟩ | ⟨-, e⟩ <;> rw [e]
  · exact tabled_updateRecord ..
  · rw [tabled_endUndelivered]
    rcases dropRecordChoice_cases r s with e | ⟨-, e⟩ <;> simp [e]

@[simp] theorem tabled_withdrawAll (cause : Mark) (rs : List Record) : (withdrawAll cause rs s).tabled = s.tabled :=
  withdrawAll_induction (P := fun v => v.tabled = s.tabled) cause rs
    (fun r v hv => (tabled_withdraw v r cause).trans hv) rfl

@[simp] theorem tabled_routeCheck (chosen : Record → Bool) : (routeCheck chosen s).tabled = s.tabled := by
  simp [routeCheck]

@[simp] theorem tabled_purgeRecords (destination : Option Nat) (side : Option Side) :
    (purgeRecords destination side s).tabled = s.tabled := by
  simp [purgeRecords]

@[simp] theorem tabled_endAll (why : EndReason) (rs : List Record) : (endAll why rs s).tabled = s.tabled :=
  (Ended.all why rs s).keeps.tabled

/-! ## The outcomes of an attempt -/

@[simp] theorem tabled_outcomeFailed (why : EndReason) : (outcomeFailed r why s).tabled = s.tabled := by
  rcases outcomeFailed_cases r why s with ⟨_, e⟩ | e <;> simp [e]

@[simp] theorem tabled_slotOutcome (o : SlotOutcome) : (slotOutcome o n s).tabled = s.tabled := by
  unfold slotOutcome
  split
  · rfl
  · rename_i r _
    cases o with
    | ack => exact tabled_deliver ..
    | busy => rcases outcomeBusy_cases r s with ⟨_, e⟩ | e <;> simp [e]
    | reject reason => cases hm : r.mark <;> simp [outcomeReject, hm]
    | noReply => exact tabled_outcomeFailed ..

@[simp] theorem tabled_outcomeNoAccess : (outcomeNoAccess n s).tabled = s.tabled := by
  unfold outcomeNoAccess
  split
  exacts [rfl, tabled_outcomeFailed ..]

@[simp] theorem tabled_abandonRecord : (abandonRecord n s).tabled = s.tabled := by
  unfold abandonRecord
  split
  · rfl
  · split
    exacts [tabled_endUndelivered .., rfl]

@[simp] theorem tabled_reportSlot (o : SlotOutcome) : (reportSlot x o s).tabled = s.tabled := by
  unfold reportSlot
  split
  exacts [rfl, tabled_slotOutcome ..]

@[simp] theorem tabled_slotArrival (t : Telegram) : (slotArrival x t s).tabled = s.tabled := by
  unfold slotArrival
  split
  · split
    exacts [rfl, tabled_reportSlot ..]
  · simp

@[simp] theorem tabled_leaveAwait : (leaveAwait x s).tabled = s.tabled := by
  unfold leaveAwait
  split
  exacts [tabled_setPort .., rfl]

@[simp] theorem tabled_discarded (c : Counter) : (discarded x c s).tabled = s.tabled := by
  unfold discarded
  dsimp only
  split <;> simp

@[simp] theorem tabled_withdrawMarked : (withdrawMarked x s).tabled = s.tabled := by
  unfold withdrawMarked
  repeat' split
  all_goals simp

/-! ## The end of a step -/

@[simp] theorem tabled_createEvent : (createEvent s).tabled = s.tabled := by
  unfold createEvent
  split
  · rfl
  · simp [State.tabled, placeRelayRecord]

@[simp] theorem tabled_createResponse (q : Request) (a : Answer) : (createResponse q a s).tabled = s.tabled := by
  simp [createResponse, State.tabled, placeRelayRecord]

@[simp] theorem tabled_testSend : (testSend s).tabled = s.tabled := by
  rcases testSend_cases s with ⟨-, e⟩ | ⟨-, e⟩ <;> rw [e]
  exacts [tabled_createEvent s, rfl]

@[simp] theorem tabled_finish : (finish s).tabled = s.tabled := by
  have hw : (withdrawClaim (arbitrateBoth s)).tabled = s.tabled := tabled_arbitrateBoth s
  rw [finish]
  generalize withdrawClaim (arbitrateBoth s) = v at hw
  cases v.due with
  | some _ => exact hw
  | none =>
    have hclose : (closeTests (arbitrateBoth (testSend v))).tabled = (arbitrateBoth (testSend v)).tabled := rfl
    rw [← hw, ← tabled_testSend v, ← tabled_arbitrateBoth (testSend v)]
    exact hclose

/-! ## The steps that reach ports and records only -/

theorem tabled_activityStarts : (activityStarts x s).tabled = s.tabled := by
  unfold activityStarts
  dsimp only
  split <;> simp

theorem tabled_replyIsSent : (replyIsSent x s).tabled = s.tabled := by
  have hc : (countReply x s).tabled = s.tabled := by
    unfold countReply
    split <;> simp
  unfold replyIsSent
  split <;> simp [hc]

theorem tabled_quietWaitEnds : (quietWaitEnds x s).tabled = s.tabled := by
  unfold quietWaitEnds
  dsimp only
  split <;> simp

theorem tabled_lineComesUp : (lineComesUp x s).tabled = s.tabled := by
  unfold lineComesUp enterUp
  dsimp only
  split <;> simp

theorem tabled_replyTimerExpires : (replyTimerExpires x s).tabled = s.tabled := by
  unfold replyTimerExpires
  dsimp only
  split <;> simp

theorem tabled_holdEnds : (holdEnds n s).tabled = s.tabled := by
  unfold holdEnds
  repeat' split
  all_goals simp

theorem tabled_lifetimeEnds : (lifetimeEnds n s).tabled = s.tabled := by
  unfold lifetimeEnds
  split <;> simp

theorem tabled_eventRepeatEnds : (eventRepeatEnds s).tabled = s.tabled := by
  unfold eventRepeatEnds
  split
  · exact tabled_finish _
  all_goals rfl

theorem tabled_lineOkChanged (level : Bool) : (lineOkChanged x level s).tabled = s.tabled := by
  unfold lineOkChanged
  split <;> simp

end

end Sys2Proof.Machine
end

section
/-! SUPPORT. The laws of parameters, tables and queues (R134, R43, R87, R137, R82, R101), and what each change of a table does
to them. -/

namespace Sys2Proof.Machine

/-! ## Tables within a limit -/

section
variable {α β : Type}

/-- A table holds each key once, in order, its entries are `ok`, and it is within its limit. -/
structure TableOk (key : α → Nat) (ok : α → Prop) (limit : Nat) (l : List α) : Prop where
  order : ascending key l = true
  entries : ∀ a ∈ l, ok a
  length : l.length ≤ limit

namespace TableOk

variable {key : α → Nat} {ok : α → Prop} {limit : Nat} {l : List α}

theorem nil : TableOk key ok limit [] := ⟨rfl, by simp, by simp⟩

theorem put (h : TableOk key ok limit l) {a : α} (ha : ok a) (hroom : l.length < limit ∨ ∃ b ∈ l, key b = key a) :
    TableOk key ok limit (insertBy key a l) where
  order := ascending_insertBy a h.order
  entries b hb := by
    rcases mem_insertBy hb with rfl | hb
    exacts [ha, h.entries b hb]
  length := by
    rcases hroom with hlt | ⟨b, hb, hk⟩
    · exact (length_insertBy_le a l).trans hlt
    · exact (length_insertBy_of_mem a h.order hb hk).trans_le h.length

theorem filter (h : TableOk key ok limit l) (p : α → Bool) : TableOk key ok limit (l.filter p) where
  order := ascending_filter p h.order
  entries a ha := h.entries a (List.mem_of_mem_filter ha)
  length := (List.length_filter_le p l).trans h.length

/-- Entries that are changed without their keys, or removed. -/
theorem filterMap (h : TableOk key ok limit l) {key' : β → Nat} {ok' : β → Prop} {f : α → Option β}
    (hf : ∀ a b, f a = some b → key' b = key a ∧ (ok a → ok' b)) : TableOk key' ok' limit (l.filterMap f) where
  order := by
    have horder := h.order
    clear h
    induction l with
    | nil => rfl
    | cons a l ih =>
      obtain ⟨hlt, hl⟩ := (ascending_cons a l).mp horder
      rw [List.filterMap_cons]
      split
      · exact ih hl
      · rename_i b hb
        refine (ascending_cons ..).mpr ⟨fun c hc => ?_, ih hl⟩
        obtain ⟨d, hd, hdc⟩ := List.mem_filterMap.mp hc
        rw [(hf a b hb).1, (hf d c hdc).1]
        exact hlt d hd
  entries b hb := by
    obtain ⟨a, ha, hab⟩ := List.mem_filterMap.mp hb
    exact (hf a b hab).2 (h.entries a ha)
  length := (List.length_filterMap_le f l).trans h.length

theorem map (h : TableOk key ok limit l) {key' : β → Nat} {ok' : β → Prop} {f : α → β}
    (hk : ∀ a, key' (f a) = key a) (ho : ∀ a, ok a → ok' (f a)) : TableOk key' ok' limit (l.map f) := by
  have := h.filterMap (key' := key') (ok' := ok') (f := some ∘ f) fun a b e => by
    obtain rfl := Option.some.inj e
    exact ⟨hk a, ho a⟩
  rwa [List.filterMap_eq_map] at this

end TableOk
end

/-! ## The laws -/

/-- An entry of the Station Table: an individual number other than OWN, and LOADED when it manages (R42, R43, R136). -/
def StationEntry.Lawful (own : Nat) (e : StationEntry) : Prop :=
  isIndividual e.station = true ∧ e.station ≠ own ∧ (e.isLoaded = true ∨ e.manage = false)

/-- An entry of the staged list: an individual number other than OWN (R137, R142). -/
def StagedEntry.Lawful (own : Nat) (e : StagedEntry) : Prop := isIndividual e.station = true ∧ e.station ≠ own

/-- A staged configuration: parameters in range, and a list within its limit (R134, R137). -/
structure Staged.Lawful (own : Nat) (c : Staged) : Prop where
  params : c.params.inRanges = true
  entries : TableOk StagedEntry.station (StagedEntry.Lawful own) 256 c.entries

/-- Parameters in their ranges, tables of individual stations other than OWN once each, tables and queues within their
limits (R134, R43, R87, R137, R82, R101). -/
structure TableLaws (s : State) : Prop where
  params : s.params.inRanges = true
  own : isIndividual s.own = true
  stations : TableOk StationEntry.station (StationEntry.Lawful s.own) 256 s.stations
  dups : TableOk DupEntry.source (fun e => isIndividual e.source = true) 128 s.dups
  session : ∀ c, s.session = some c → c.staged.Lawful s.own
  queue : ∀ x, (s.queue x).length ≤ 48
  requests : s.requests.length ≤ 4

theorem tableLaws_iff (s : State) :
    TableLaws s ↔ s.paramsOk = true ∧ s.tablesOk = true ∧ s.queuesOk = true := by
  simp only [State.paramsOk, State.tablesOk, State.queuesOk, Bool.and_eq_true, Option.all_eq_true, List.all_eq_true,
    bne_iff_ne, Bool.or_eq_true, Bool.not_eq_true', decide_eq_true_eq]
  constructor
  · intro h
    refine ⟨⟨h.params, fun c hc => (h.session c hc).params⟩, ⟨⟨⟨⟨⟨⟨⟨h.own, h.stations.order⟩, fun e he => ?_⟩, h.stations.length⟩,
      h.dups.order⟩, h.dups.entries⟩, h.dups.length⟩, fun c hc => ?_⟩, ⟨h.queue .a, h.queue .b⟩, h.requests⟩
    · exact and_assoc.mpr (h.stations.entries e he)
    · have := (h.session c hc).entries
      exact ⟨⟨this.order, this.entries⟩, this.length⟩
  · rintro ⟨⟨hp, hsp⟩, ⟨⟨⟨⟨⟨⟨⟨ho, hso⟩, hse⟩, hsl⟩, hdo⟩, hde⟩, hdl⟩, hss⟩, ⟨ha, hb⟩, hr⟩
    refine ⟨hp, ho, ⟨hso, fun e he => and_assoc.mp (hse e he), hsl⟩, ⟨hdo, hde, hdl⟩, fun c hc => ⟨hsp c hc, ?_⟩,
      fun x => ?_, hr⟩
    · obtain ⟨⟨h1, h2⟩, h3⟩ := hss c hc
      exact ⟨h1, h2, h3⟩
    · cases x
      exacts [ha, hb]

namespace TableLaws

variable {s t : State}

/-- A change of other blocks keeps the laws of the tables. -/
theorem of_tabled (h : TableLaws s) (e : t.tabled = s.tabled) : TableLaws t := by
  simp only [State.tabled, Prod.mk.injEq] at e
  obtain ⟨⟨e1, e2⟩, ⟨e3, e4⟩, ⟨e5, e6⟩, e7, e8⟩ := e
  obtain ⟨h1, h2, h3, h4, h5, h6, h7⟩ := h
  exact ⟨e2 ▸ h1, e1 ▸ h2, e1 ▸ e3 ▸ h3, e4 ▸ h4, e1 ▸ e8 ▸ h5, fun x => queue_congr e5 e6 x ▸ h6 x, e7 ▸ h7⟩

/-! ## One table changed -/

theorem withParams (h : TableLaws s) {p : Params} (hp : p.inRanges = true) : TableLaws { s with params := p } :=
  { h with params := hp, queue := h.queue }

theorem withStations (h : TableLaws s) {l : List StationEntry}
    (hl : TableOk StationEntry.station (StationEntry.Lawful s.own) 256 l) : TableLaws { s with stations := l } :=
  { h with stations := hl, queue := h.queue }

theorem withDups (h : TableLaws s) {l : List DupEntry}
    (hl : TableOk DupEntry.source (fun e => isIndividual e.source = true) 128 l) : TableLaws { s with dups := l } :=
  { h with dups := hl, queue := h.queue }

theorem withSession (h : TableLaws s) {o : Option Session} (ho : ∀ c, o = some c → c.staged.Lawful s.own) :
    TableLaws { s with session := o } :=
  { h with session := ho, queue := h.queue }

theorem withRequests (h : TableLaws s) {l : List Request} (hl : l.length ≤ 4) : TableLaws { s with requests := l } :=
  { h with requests := hl, queue := h.queue }

theorem setQueue (h : TableLaws s) {x : Side} {q : List PlainEntry} (hq : q.length ≤ 48) :
    TableLaws (setQueue x q s) where
  params := by rw [setQueue_params]; exact h.params
  own := by rw [setQueue_own]; exact h.own
  stations := by rw [setQueue_own, setQueue_stations]; exact h.stations
  dups := by rw [setQueue_dups]; exact h.dups
  session := by rw [setQueue_own, setQueue_session]; exact h.session
  queue y := by
    rw [queue_setQueue]
    split
    exacts [hq, h.queue y]
  requests := by rw [setQueue_requests]; exact h.requests

end TableLaws

end Sys2Proof.Machine
end

section
/-! SUPPORT. The laws of the tables through learning, custody, the plain queues, the segment reset and the forwarding
decision. -/

namespace Sys2Proof.Machine

/-- The source of a well-formed telegram is an individual station (R1, R9). -/
theorem src_of_wellFormed {bytes : List Byte} {t : Telegram} (h : checkReception bytes = .wellFormed t) :
    isIndividual t.src = true := by
  obtain ⟨body, hbody⟩ := parseBody_of_wellFormed h
  obtain ⟨⟨reserved, len, hok⟩, -⟩ := fieldsOk_of_parseBody hbody
  simp only [fieldsOk, Bool.and_eq_true] at hok
  exact hok.1.1.1.2

namespace TableLaws

variable {s : State}

/-! ## The Station Table -/

theorem putStation (h : TableLaws s) {e : StationEntry} (he : e.Lawful s.own)
    (hroom : s.stations.length < 256 ∨ ∃ g ∈ s.stations, g.station = e.station) : TableLaws (putStation e s) :=
  h.withStations (h.stations.put he hroom)

/-- The table learns a source other than OWN: while it has room, or in the place of the source's own LEARNED entry, which
never manages (R63 to R67). -/
theorem learn (h : TableLaws s) (x : Side) {src : Nat} (hi : isIndividual src = true) (hne : src ≠ s.own) :
    TableLaws (learn x src s) := by
  by_cases hon : s.params.mode = .forward ∧ s.params.learn = true
  · obtain ⟨hm, hl⟩ := hon
    cases hlook : s.lookup src with
    | none =>
      rw [learn_of_unknown hm hl x hlook, learnNew]
      split
      · rename_i hroom
        exact h.putStation ⟨hi, hne, .inr rfl⟩ (.inl hroom)
      · exact h.of_tabled rfl
    | some e =>
      obtain ⟨hmem, -⟩ := lookup_mem hlook
      obtain ⟨hind, hown, hman⟩ := h.stations.entries e hmem
      cases ho : e.origin with
      | loaded => rwa [learn_of_loaded hm hl x hlook ho]
      | learned idle =>
        have hput : TableLaws (Machine.putStation (e.heard x) s) := by
          refine h.putStation ⟨hind, hown, .inr ?_⟩ (.inr ⟨e, hmem, rfl⟩)
          exact hman.resolve_left (by simp [StationEntry.isLoaded, ho])
        rw [learn_of_learned hm hl x hlook ho, learnHeard]
        split
        · exact hput
        · exact hput.of_tabled (tabled_routeCheck ..)
  · rwa [Machine.learn, if_neg hon]

theorem agingTicks (h : TableLaws s) : TableLaws (agingTicks s) := by
  refine withStations (s := { Machine.reach s.nextTick s with nextTick := s.nextTick + Config.agingPeriod })
    (h.of_tabled rfl) (h.stations.filterMap fun e f hf => ?_)
  cases ho : e.origin with
  | loaded =>
    rw [ageEntry_loaded ho, Option.some.injEq] at hf
    subst hf
    exact ⟨rfl, id⟩
  | learned idle =>
    rw [ageEntry_learned ho] at hf
    split at hf
    · cases hf
    · obtain rfl := Option.some.inj hf
      exact ⟨rfl, fun ⟨hi, hne, hman⟩ => ⟨hi, hne, .inr (hman.resolve_left (by simp [StationEntry.isLoaded, ho]))⟩⟩

/-! ## The duplicate table -/

theorem putDup (h : TableLaws s) {e : DupEntry} (he : isIndividual e.source = true)
    (hroom : s.dups.length < 128 ∨ ∃ g ∈ s.dups, g.source = e.source) : TableLaws (putDup e s) :=
  h.withDups (h.dups.put he hroom)

theorem removeDup (h : TableLaws s) (source : Nat) : TableLaws (removeDup source s) := h.withDups (h.dups.filter _)

/-- A final reply is recorded in the source's own entry, or with room made for a new one (R89, R90). -/
theorem recordFinal (h : TableLaws s) (x : Side) {t : Telegram} (hi : isIndividual t.src = true) (reply : FinalReply) :
    TableLaws (recordFinal x t reply s) := by
  cases hd : s.dup? t.src with
  | some g =>
    obtain ⟨hmem, hsrc⟩ := dup?_mem hd
    rw [recordFinal_of_some (by simp [hd])]
    exact h.putDup hi (.inr ⟨g, hmem, hsrc⟩)
  | none =>
    rw [recordFinal_of_none hd]
    by_cases hfull : 128 ≤ s.dups.length
    · obtain ⟨g, hmem, -, hroom⟩ := makeDupRoom_of_full hfull
      have hlen := length_filter_key_ne h.dups.order hmem
      have hle := h.dups.length
      have hshort : (s.dups.filter fun e => e.source != g.source).length < 128 := by omega
      rw [hroom]
      exact putDup (s := count .dupEvicted (Machine.removeDup g.source s)) ((h.removeDup _).of_tabled rfl) hi
        (.inl hshort)
    · rw [makeDupRoom_of_room (Nat.not_le.mp hfull)]
      exact h.putDup hi (.inl (Nat.not_le.mp hfull))

theorem answerDuplicate (h : TableLaws s) {x : Side} {t : Telegram} {reply : FinalReply} {v : State}
    (ha : answerDuplicate x t s = some (reply, v)) : TableLaws v := by
  unfold Machine.answerDuplicate at ha
  split at ha
  · cases ha
  · rename_i e he
    split at ha
    · cases ha
      obtain ⟨hmem, -⟩ := dup?_mem he
      exact (h.putDup (e := { e with arrivalSide := x, lastUse := s.now }) (h.dups.entries e hmem)
        (.inr ⟨e, hmem, rfl⟩)).of_tabled rfl
    · cases ha

theorem dupHoldEnds (h : TableLaws s) (source : Nat) : TableLaws (dupHoldEnds source s) := by
  unfold Machine.dupHoldEnds
  split
  · exact h
  · exact removeDup (s := Machine.reach _ s) (h.of_tabled rfl) source

/-! ## The plain queues -/

theorem plainHandOff (h : TableLaws s) (x : Side) (t : Telegram) : TableLaws (plainHandOff x t s) := by
  by_cases hfit : s.fitsPlain x t
  · rw [(plainHandOff_cases x t s).1 hfit]
    obtain ⟨-, hlt, -⟩ := hfit
    have hjoin : TableLaws (joinQueue x t s) :=
      setQueue (s := Machine.claimCells _ s) (h.of_tabled rfl) (by simpa using hlt)
    exact hjoin.of_tabled (tabled_arbitrate ..)
  · rw [(plainHandOff_cases x t s).2 hfit]
    exact h.of_tabled rfl

theorem releaseHead (h : TableLaws s) (x : Side) : TableLaws (releaseHead x s) := by
  cases hq : s.queue x with
  | nil => rwa [Machine.releaseHead, hq]
  | cons e rest =>
    have hlen := h.queue x
    rw [hq, List.length_cons] at hlen
    rw [releaseHead_cons hq]
    exact of_tabled (h.setQueue (x := x) (q := rest) (by omega)) rfl

theorem flushQueue (h : TableLaws s) (x : Side) : TableLaws (flushQueue x s) := by
  rw [flushQueue_eq]
  exact of_tabled (h.setQueue (x := x) (q := []) (by simp)) rfl

/-! ## The segment reset -/

theorem segmentReset (h : TableLaws s) (x : Side) : TableLaws (segmentReset x s) := by
  have hport : TableLaws (segmentResetPort x s) := by
    rw [segmentResetPort_eq]
    exact of_tabled (setQueue (q := []) (h.of_tabled (tabled_setPort s x (s.port x).atSegmentReset)) (by simp)) rfl
  have hlines : TableLaws (resetLines x s) := hport.of_tabled (tabled_endAll ..)
  rw [segmentReset_eq]
  refine TableLaws.of_tabled ?_ (tabled_arbitrateBoth _)
  rw [resetBlocks_eq]
  generalize resetLines x s = v at hlines
  have hdups := hlines.withDups (hlines.dups.filter fun e => e.arrivalSide != x)
  have hrequests := hdups.withRequests ((List.length_filter_le (fun q => q.side != x) v.requests).trans hlines.requests)
  refine TableLaws.of_tabled (hrequests.withSession
    (o := if v.session.any (fun c => c.side == x) then none else v.session) fun c hc => ?_) rfl
  split at hc
  · cases hc
  · exact hlines.session c hc

/-! ## The forwarding decision -/

section
variable (h : TableLaws s) (x : Side) {t : Telegram} (hi : isIndividual t.src = true)
include h hi

theorem giveChosen (reply : FinalReply) : TableLaws (giveChosen x t reply s).2 := by
  unfold Machine.giveChosen
  split
  · exact h.answerDuplicate (by assumption)
  · exact h.recordFinal x hi reply

theorem acceptRequest : TableLaws (acceptRequest x t s).2 := by
  unfold Machine.acceptRequest
  split
  · exact h.answerDuplicate (by assumption)
  · split
    · exact h
    · rename_i hroom
      have hlen : s.requests.length < 4 := by
        simp only [not_or, Config.requestLimit] at hroom
        omega
      refine recordFinal (s := storeRequest x t s) ?_ x hi .ack
      exact of_tabled (h.withRequests (l := s.requests ++ [{ station := t.src, side := x, seq := t.seq, payload := t.payload }])
        (by simpa using hlen)) rfl

theorem acceptCustody (admitted : Bool) : TableLaws (acceptCustody x t admitted s).2 := by
  unfold Machine.acceptCustody
  split
  · exact h.answerDuplicate (by assumption)
  · repeat' split
    · exact h.recordFinal x hi _
    · exact h.recordFinal x hi _
    · exact h
    · refine TableLaws.of_tabled (recordFinal (h.of_tabled ?_) x hi .ack) (tabled_arbitrate ..)
      rfl

theorem toOwn : TableLaws (toOwn x t s).1 := by
  unfold Machine.toOwn
  split
  · exact h.acceptRequest x hi
  · exact h.giveChosen x hi _
  · exact h.giveChosen x hi _
  · exact h.giveChosen x hi _
  · exact h.giveChosen x hi _
  all_goals exact h

theorem toKnown (e : StationEntry) : TableLaws (toKnown x t e s).1 := by
  unfold Machine.toKnown
  split
  · exact h
  · split
    · exact h.acceptCustody x hi _
    · split
      exacts [h.plainHandOff x t, h]

theorem toUnknown : TableLaws (toUnknown x t s).1 := by
  unfold Machine.toUnknown
  split
  · split
    exacts [h.acceptCustody x hi _, h.plainHandOff x t]
  · exact h
  · split
    exacts [h.giveChosen x hi _, h]

theorem classify : TableLaws (classify x t s).1 := by
  unfold Machine.classify
  split
  · exact h
  · split
    · split
      exacts [h.plainHandOff x t, h]
    · split
      · split
        exacts [h.plainHandOff x t, h]
      · split
        exacts [h.toKnown x hi _, h.toUnknown x hi]

theorem dispose : TableLaws (dispose x t s).1 := by
  unfold Machine.dispose
  split
  · exact h.of_tabled (tabled_slotArrival ..)
  · split
    · exact h.of_tabled rfl
    · split
      · exact h.toOwn x hi
      · split
        · unfold sresetArrival
          dsimp only
          split
          exacts [(h.segmentReset x).plainHandOff x t, h.segmentReset x]
        · exact h.classify x hi

/-- The source check keeps OWN out of the Station Table (R47, R43). -/
theorem forward : TableLaws (forward x t s).1 := by
  unfold Machine.forward
  split
  · dsimp only
    split
    · exact h.of_tabled (tabled_reportSlot ..)
    · exact h.of_tabled rfl
  · rename_i hconflict
    have hne : t.src ≠ s.own := fun e => hconflict ((sourceConflict_iff s x t.src).mpr (.inl e))
    exact (h.learn x hi hne).dispose x hi

end

end TableLaws

end Sys2Proof.Machine
end

section
/-! SUPPORT. The laws of the tables through the session commands, the steps of the lines and timers, and every command; the
statement on them. -/

namespace Sys2Proof.Machine

/-! ## Parameters and staged configurations -/

/-- A parameter is set only to a value in its range (R134, R145). -/
theorem inRanges_set {p p' : Params} {identifier v : Nat} (hp : p.inRanges = true) (h : p.set identifier v = some p') :
    p'.inRanges = true := by
  -- a code bears on no range, and a value is tested by its own
  simp only [Params.inRanges, Bool.and_eq_true, decide_eq_true_eq] at hp ⊢
  unfold Params.set at h
  repeat' split at h
  all_goals simp only [inRange, Option.map_eq_some_iff, Option.ite_none_right_eq_some, Option.some.injEq, reduceCtorEq] at h
  all_goals first | (subst h; exact hp) | (obtain ⟨_, ⟨⟨hlow, hhigh⟩, rfl⟩, rfl⟩ := h; simp only [hp, hlow, hhigh, and_self])

theorem inRanges_stagePairs {i : Nat} {bytes : List Byte} {p p' : Params} (hp : p.inRanges = true)
    (h : stagePairs i bytes p = .ok p') : p'.inRanges = true := by
  induction i, bytes, p using stagePairs.induct with
  | case1 i p =>
    rw [stagePairs] at h
    cases h
    exact hp
  | case2 i p identifier high low rest q hset ih =>
    rw [stagePairs, hset] at h
    exact ih (inRanges_set hp hset) h
  | case3 i p identifier high low rest hset =>
    rw [stagePairs, hset] at h
    cases h
  | case4 i bytes p h1 h2 =>
    rw [stagePairs] at h
    · cases h
    all_goals assumption

/-- What an entry carried by STAGE_STATION is (R142): individual and not OWN. -/
theorem lawful_stagedEntryOf {own : Nat} {args : List Byte} {e : StagedEntry} (h : stagedEntryOf own args = some e) :
    e.Lawful own := by
  unfold stagedEntryOf at h
  split at h
  · dsimp only at h
    split at h
    · split at h
      · rename_i hok
        obtain rfl := Option.some.inj h
        simpa [StagedEntry.Lawful] using hok
      · cases h
    · cases h
  · cases h

/-- The permitted holder passes the three tests of R138, and no other requester. -/
theorem holderTests_eq_ok {q : Request} {s : State} {c : Session} : holderTests q s = .ok c ↔ s.holds q c := by
  unfold holderTests State.holds
  cases hp : s.permits q.station
  · simp
  · cases hs : s.session with
    | none => simp
    | some d =>
      by_cases hd : d.holder = q.station
      · simp [hd]
        rintro rfl
        exact hd
      · simp [hd]
        rintro rfl
        exact hd

/-- A copy of a lawful active configuration is a lawful staged one (R139, R148). -/
theorem TableLaws.activeCopy {s : State} (h : TableLaws s) : s.activeCopy.Lawful s.own :=
  ⟨h.params, (h.stations.filter StationEntry.isLoaded).map (fun _ => rfl) fun _ ⟨hi, hne, _⟩ => ⟨hi, hne⟩⟩

/-! ## The execution of a request -/

namespace TableLaws

variable {s t : State}

theorem renewLease (h : TableLaws s) (q : Request) : TableLaws (renewLease q s) := by
  unfold Machine.renewLease
  split
  · rename_i c hc
    split
    · refine h.withSession fun d hd => ?_
      obtain rfl := Option.some.inj hd
      exact h.session c hc
    · exact h
  · exact h

theorem putStaged (h : TableLaws s) (c : Session) {staged : Staged} (hl : staged.Lawful s.own) :
    TableLaws (putStaged c staged s) :=
  h.withSession fun d hd => by
    obtain rfl := Option.some.inj hd
    exact hl

theorem doOpenSession (h : TableLaws s) (q : Request) : TableLaws (doOpenSession q s).1 := by
  unfold Machine.doOpenSession
  split
  · exact h
  · split
    · exact h
    · dsimp only
      split
      · refine h.withSession fun d hd => ?_
        obtain rfl := Option.some.inj hd
        exact h.activeCopy
      · rename_i c hc
        split
        · refine h.withSession fun d hd => ?_
          obtain rfl := Option.some.inj hd
          exact h.session c hc
        · exact h

/-- A command of the holder that changes nothing unless the tests of R138 pass. -/
theorem of_holder (h : TableLaws s) {q : Request} {f : Session → State × Answer}
    (hf : ∀ c, c.staged.Lawful s.own → TableLaws (f c).1) :
    TableLaws (match holderTests q s with | .error o => (s, plainAnswer o) | .ok c => f c).1 := by
  cases ht : holderTests q s with
  | error o => exact h
  | ok c => exact hf c (h.session c (holderTests_eq_ok.mp ht).2.1)

theorem doCloseSession (h : TableLaws s) (q : Request) : TableLaws (doCloseSession q s).1 :=
  h.of_holder fun _ _ => h.withSession (by simp)

theorem doStageStation (h : TableLaws s) (q : Request) : TableLaws (doStageStation q s).1 :=
  h.of_holder fun c hc => by
    split
    · exact h
    · rename_i e he
      dsimp only
      split
      · rename_i hroom
        refine h.putStaged c ⟨hc.params, hc.entries.put (lawful_stagedEntryOf he) ?_⟩
        simp only [Bool.or_eq_true, List.any_eq_true, beq_iff_eq, decide_eq_true_eq] at hroom
        exact hroom.symm
      · exact h

theorem doUnstageStation (h : TableLaws s) (q : Request) : TableLaws (doUnstageStation q s).1 :=
  h.of_holder fun c hc => by
    split
    · exact h
    · dsimp only
      split
      exacts [h.putStaged c ⟨hc.params, hc.entries.filter _⟩, h]

theorem doStageGroups (h : TableLaws s) (q : Request) : TableLaws (doStageGroups q s).1 :=
  h.of_holder fun c hc => by
    split
    · exact h
    · split
      · exact h
      · refine h.putStaged c ?_
        split
        exacts [⟨hc.params, hc.entries⟩, ⟨hc.params, hc.entries⟩]

theorem doStageParams (h : TableLaws s) (q : Request) : TableLaws (doStageParams q s).1 :=
  h.of_holder fun c hc => by
    split
    · exact h
    · rename_i p hp
      exact h.putStaged c ⟨inRanges_stagePairs hc.params hp, hc.entries⟩

/-- The merge fills the places that the staged entries leave with LEARNED ones, at most up to the limit (R71). -/
theorem mergeStations (h : TableLaws s) {staged : Staged} (hl : staged.Lawful s.own) :
    TableOk StationEntry.station (StationEntry.Lawful s.own) 256 (mergeStations staged.entries s.stations) := by
  obtain ⟨hasc, hlen, hmem⟩ := mergeStations_spec hl.entries.order h.stations.order
  obtain ⟨-, hsub, hkept, -⟩ := learnedKept_spec staged.entries h.stations.order
  refine ⟨hasc, fun e he => ?_, ?_⟩
  · rcases (hmem e).mp he with ⟨g, hg, rfl⟩ | he
    · obtain ⟨hi, hne⟩ := hl.entries.entries g hg
      exact ⟨hi, hne, .inl rfl⟩
    · exact h.stations.entries e (List.mem_of_mem_filter (hsub he))
  · have := hl.entries.length
    omega

theorem carryOutCommit (h : TableLaws s) (keepOpen : Bool) {c : Session} (hl : c.staged.Lawful s.own) :
    TableLaws (carryOutCommit keepOpen c s) := by
  have hinstall : TableLaws (installConfig c.staged s) :=
    ((h.withStations (h.mergeStations hl)).withParams hl.params).of_tabled (by simp only [State.tabled, installConfig])
  have hexpire : TableLaws (expireDups (installConfig c.staged s)) := hinstall.withDups (hinstall.dups.filter _)
  have hroute : TableLaws (routeCheck (fun _ => true) (latch .committed (expireDups (installConfig c.staged s)))) :=
    hexpire.of_tabled ((tabled_routeCheck ..).trans (tabled_latch ..))
  generalize hv : routeCheck (fun _ => true) (latch .committed (expireDups (installConfig c.staged s))) = v at hroute
  rw [Machine.carryOutCommit, hv, settleSession]
  split
  · refine hroute.withSession fun d hd => ?_
    obtain rfl := Option.some.inj hd
    exact hroute.activeCopy
  · exact hroute.withSession (by simp)

theorem doCommit (h : TableLaws s) (q : Request) : TableLaws (doCommit q s).1 :=
  h.of_holder fun c hc => by
    split
    · exact h
    · split
      · exact h
      · split
        exacts [h.carryOutCommit _ hc, h]

/-- The reads, PURGE, RESTART and the event commands touch neither parameters nor tables nor queues. -/
theorem carryOut (h : TableLaws s) (c : Command) (q : Request) : TableLaws (carryOut c q s).1 := by
  cases c with
  | openSession => exact h.doOpenSession q
  | closeSession => exact h.doCloseSession q
  | stageStation => exact h.doStageStation q
  | unstageStation => exact h.doUnstageStation q
  | stageGroups => exact h.doStageGroups q
  | stageParams => exact h.doStageParams q
  | commit => exact h.doCommit q
  | purge =>
    simp only [Machine.carryOut, doPurge]
    repeat' split
    all_goals first | exact h | exact h.of_tabled (tabled_purgeRecords ..)
  | identify | readEvents => exact h
  | readStations | readConfig | readCounters | readCustody | restart | setEventStation | setEventMask | clearEvents =>
    refine h.of_tabled ?_
    simp only [Machine.carryOut, doReadStations, doReadConfig, doReadCounters, clearCounters, doReadCustody, doRestart,
      doSetEventStation, doSetEventMask, doClearEvents]
    (repeat' split) <;> rfl

theorem decideRequest (h : TableLaws s) (q : Request) : TableLaws (decideRequest q s).1 := by
  unfold Machine.decideRequest
  dsimp only
  split
  exacts [(h.renewLease q).carryOut _ q, h.renewLease q]

/-- The head leaves a queue one shorter (R155, part 6). -/
theorem executeHead (h : TableLaws s) : TableLaws (executeHead s) := by
  unfold Machine.executeHead
  split
  · exact h
  · rename_i q rest hq
    have hlen := h.requests
    rw [hq, List.length_cons] at hlen
    have hcreated : TableLaws (createResponse q (Machine.decideRequest q s).2 (Machine.decideRequest q s).1) :=
      (h.decideRequest q).of_tabled (tabled_createResponse ..)
    exact (hcreated.withRequests (l := rest) (by omega)).of_tabled rfl

/-! ## The steps of the lines and timers -/

theorem takeReception (h : TableLaws s) (x : Side) (bytes : List Byte) : TableLaws (takeReception x bytes s) := by
  unfold Machine.takeReception
  refine TableLaws.of_tabled ?_ (tabled_leaveAwait ..)
  split
  · exact h.of_tabled (tabled_discarded ..)
  · exact h.of_tabled (tabled_discarded ..)
  · rename_i t ht
    have hf : TableLaws (Machine.forward x t (count (.rxGood x) s)).1 :=
      forward (s := count (.rxGood x) s) (h.of_tabled rfl) x (src_of_wellFormed ht)
    unfold answerSlot
    split
    exacts [hf.of_tabled (tabled_setPort ..), hf]

theorem receptionEnds (h : TableLaws s) (x : Side) (bytes : List Byte) : TableLaws (receptionEnds x bytes s) := by
  have hquiet : TableLaws (Machine.setPort x ((s.port x).lineQuiet s.now) s) := h.of_tabled (tabled_setPort ..)
  unfold Machine.receptionEnds
  dsimp only
  split
  · exact h
  · exact h
  · exact hquiet
  all_goals
    split
    exacts [hquiet, (hquiet.takeReception x bytes).of_tabled (tabled_finish _)]

theorem lineIsLost (h : TableLaws s) (x : Side) : TableLaws (lineIsLost x s) := by
  unfold Machine.lineIsLost
  dsimp only
  split
  · refine TableLaws.of_tabled ?_ (tabled_finish _)
    split
    · exact h.of_tabled (by simp)
    · have hg : TableLaws (Machine.setPort x (s.port x).giveUp (count (.contentionLosses x) s)) := h.of_tabled (by simp)
      unfold giveUpChoice
      split
      · exact (hg.releaseHead x).of_tabled rfl
      · exact hg.of_tabled (tabled_outcomeNoAccess ..)
      · exact hg
  · exact h

theorem transmissionEnds (h : TableLaws s) (x : Side) : TableLaws (transmissionEnds x s) := by
  unfold Machine.transmissionEnds
  dsimp only
  split
  · split
    · refine TableLaws.of_tabled ?_ (tabled_finish _)
      unfold plainIsSent
      have hr := releaseHead (s := Machine.setPort x (((count (.txTelegrams x) s).port x).plainSent (count (.txTelegrams x) s).now)
        (count (.txTelegrams x) s)) (h.of_tabled (tabled_setPort ..)) x
      dsimp only
      split
      exacts [hr.segmentReset x, hr]
    · exact h.of_tabled (by simp)
    · exact h
  · exact h

theorem lineGoesDown (h : TableLaws s) (x : Side) : TableLaws (lineGoesDown x s) := by
  unfold Machine.lineGoesDown
  dsimp only
  split
  · refine TableLaws.of_tabled ?_ (tabled_finish _)
    unfold enterDown
    dsimp only
    refine of_tabled (flushQueue ?_ x) rfl
    split
    all_goals exact h.of_tabled (by simp)
  · exact h

theorem leaseEnds (h : TableLaws s) : TableLaws (leaseEnds s) := by
  unfold Machine.leaseEnds
  split
  · exact h
  · refine TableLaws.of_tabled ?_ (tabled_finish _)
    exact of_tabled (h.withSession (o := none) (by simp)) rfl

/-! ## Restarts, the due steps and every command -/

/-- OWN as sampled is an individual station (R2, R188). -/
theorem individual_sampledOwn (station : BitVec 11) : isIndividual (sampledOwn station) = true := by
  unfold sampledOwn strapInvalid
  split
  · rfl
  · simp [isIndividual] at *
    omega

theorem inRanges_defaults (mode : Mode) : (Params.defaults mode).inRanges = true := by cases mode <;> rfl

theorem restartQueues (h : TableLaws s) : TableLaws (restartQueues s) where
  params := h.params
  own := h.own
  stations := h.stations
  dups := .nil
  session c (hc : none = some c) := by cases hc
  queue x := by cases x <;> exact Nat.zero_le _
  requests := Nat.zero_le _

theorem resetWith (straps : Straps) (s : State) : TableLaws (resetWith straps s) where
  params := inRanges_defaults _
  own := individual_sampledOwn _
  stations := .nil
  dups := .nil
  session c (hc : none = some c) := by cases hc
  queue x := by cases x <;> exact Nat.zero_le _
  requests := Nat.zero_le _

theorem carryOutDue (h : TableLaws s) (d : Due) : TableLaws (carryOutDue d s) := by
  refine TableLaws.of_tabled ?_ (tabled_finish _)
  cases d with
  | restart k =>
    cases k with
    | queues => exact h.restartQueues
    | full => exact resetWith s.pins s
  | responseClaim => exact h.executeHead
  | eventClaim => exact h.of_tabled (tabled_createEvent s)
  | head => exact h.executeHead

theorem takeDue (h : TableLaws s) (wanted : State → Due → Bool) (n : Nat) : TableLaws (takeDue wanted n s) := by
  induction n generalizing s with
  | zero => exact h
  | succ n ih =>
    unfold Machine.takeDue
    split
    · exact h
    · split
      exacts [h.carryOutDue _, ih (h.carryOutDue _)]

theorem settle (h : TableLaws s) : TableLaws (settle s) := h.takeDue _ _

theorem fromOutside (h : TableLaws s) (dt : Nat) {effect : State → State} (he : ∀ v, TableLaws v → TableLaws (effect v)) :
    ∃ t, fromOutside dt effect s = .next t ∧ TableLaws t := by
  have hs : TableLaws (elapse dt (Machine.settle s)) := h.settle.of_tabled rfl
  refine ⟨_, rfl, ?_⟩
  split
  exacts [hs, he _ hs]

theorem fromTimer (h : TableLaws s) {effect : State → State} (he : ∀ v, TableLaws v → TableLaws (effect v)) :
    ∃ t, fromTimer effect s = .next t ∧ TableLaws t := by
  refine ⟨_, rfl, ?_⟩
  split
  exacts [h.settle, he _ h.settle]

/-- Every command answers next, and keeps the laws of the tables. -/
theorem exec (h : TableLaws s) (c : Instr) : ∃ t, exec c s = .next t ∧ TableLaws t := by
  have hs : ∀ dt, TableLaws (elapse dt (Machine.settle s)) := fun _ => h.settle.of_tabled rfl
  cases c with
  | hardwareReset dt straps => exact ⟨_, rfl, resetWith _ _⟩
  | lineDown x => exact h.fromTimer fun _ hv => hv.lineGoesDown x
  | lineUp x => exact h.fromTimer fun _ hv => hv.of_tabled (tabled_lineComesUp ..)
  | lineActivityStart dt x => exact h.fromOutside dt fun _ hv => hv.of_tabled (tabled_activityStarts ..)
  | receptionEnd dt x bytes => exact h.fromOutside dt fun _ hv => hv.receptionEnds x bytes
  | replySent dt x => exact h.fromOutside dt fun _ hv => hv.of_tabled (tabled_replyIsSent ..)
  | quietWaitComplete x => exact h.fromOutside 0 fun _ hv => hv.of_tabled (tabled_quietWaitEnds ..)
  | contentionLoss dt x => exact h.fromOutside dt fun _ hv => hv.lineIsLost x
  | transmitDone dt x => exact h.fromOutside dt fun _ hv => hv.transmissionEnds x
  | replyTimerExpiry x => exact h.fromTimer fun _ hv => hv.of_tabled (tabled_replyTimerExpires ..)
  | holdEnd n => exact h.fromTimer fun _ hv => hv.of_tabled (tabled_holdEnds ..)
  | lifetimeExpiry n => exact h.fromTimer fun _ hv => hv.of_tabled (tabled_lifetimeEnds ..)
  | agingTick => exact h.fromTimer fun _ hv => hv.agingTicks
  | dupHoldExpiry source => exact h.fromTimer fun _ hv => hv.dupHoldEnds source
  | leaseExpiry => exact h.fromTimer fun _ hv => hv.leaseEnds
  | eventRepeatExpiry => exact h.fromTimer fun _ hv => hv.of_tabled (tabled_eventRepeatEnds _)
  | lineOkChange dt x level => exact ⟨_, rfl, (hs dt).of_tabled (tabled_lineOkChanged ..)⟩
  | resetNLow dt lowFor =>
    refine ⟨_, rfl, ?_⟩
    split
    exacts [hs dt, (hs dt).of_tabled rfl]
  | restartFull straps =>
    have hp : TableLaws { s with pins := straps } := h.of_tabled rfl
    exact ⟨_, rfl, hp.takeDue _ _⟩
  | eventClaimGranted | responseClaimGranted | malformedRequest | identify | readStations | readConfig | readCounters
  | readCustody | readEvents | openSession | closeSession | stageStation | unstageStation | stageGroups | stageParams
  | commit | purge | restart | restartQueues | setEventStation | setEventMask | clearEvents =>
    exact ⟨_, rfl, h.takeDue _ _⟩

theorem step (h : TableLaws s) (ht : step s = .next t) : TableLaws t := by
  unfold Machine.step at ht
  split at ht
  · exact Host.Outcome.next.inj ht ▸ h
  · rename_i c rest _
    have hs : TableLaws { s with pending := rest } := h.of_tabled rfl
    obtain ⟨v, hv, hlaws⟩ := hs.exec c
    exact Host.Outcome.next.inj (hv.symm.trans ht) ▸ hlaws

end TableLaws

end Sys2Proof.Machine

namespace Sys2Proof.Settled

open Sys2Proof.Machine

/-- Settles O60: every step keeps the laws of the tables. -/
theorem tablesKept : Obligations.TablesKept := fun s t hparams htables hqueues ht =>
  (tableLaws_iff t).mp (((tableLaws_iff s).mpr ⟨hparams, htables, hqueues⟩).step ht)

end Sys2Proof.Settled
end

section
/-! SUPPORT. The lease's end (R149), and the execution of a request at the head by what its command answers (R155); the
statements on the lease's end, OPEN_SESSION and CLOSE_SESSION and on the refusals before the arguments. -/

namespace Sys2Proof.Machine

/-! ## LEASE_EXPIRY -/

theorem leaseEnds_of_session {s : State} {c : Session} (h : s.session = some c) :
    leaseEnds s = finish { s with
      now := max s.now c.leaseEnd, session := none, latched := s.latched ||| 0x0100#16 } := by
  rw [leaseEnds, h]
  rfl

/-! ## The execution of the head -/

/-- A command that carries the head's own management command executes it, and the step ends in what the command leaves and
answers (R155, R156). -/
theorem execution_endsAs {k : Instr} {cmd : Command} {s s' : State} {q : Request} {rest : List Request} {a : Answer}
    (hn : s.numbered = true) (he : s.executing q rest) (hk : executes k = some (some cmd)) (hq : q.command = some cmd)
    (hcarry : carryOut cmd q (renewLease q s) = (s', a)) :
    ∃ t, exec k s = .next t ∧ EndsAs (executed q rest a s') t := by
  have hdecide : decideRequest q s = (s', a) := by rw [decideRequest, hq, ← hcarry]
  obtain ⟨-, hroom⟩ := executing_room he
  obtain ⟨-, -, hnumbered⟩ := (keepsNumbers_decideRequest q s).of
  have hhead : executeHead s = executed q rest a s' := by
    simp only [executeHead, he.1]
    rw [executeRequest, hdecide]
    rfl
  rw [hdecide] at hroom hnumbered
  obtain ⟨d, hd, hdue⟩ : ∃ d, s.due = some d ∧ carryOutDue d s = finish (executed q rest a s') := by
    rw [← hhead]
    rcases he.2 with hd | hd
    exacts [⟨_, hd, rfl⟩, ⟨_, hd, rfl⟩]
  have hwants : wants k s d = true := (wants_iff hd k).mpr (.inl ⟨q, rest, he, hk.trans (congrArg some hq.symm)⟩)
  have hexec := exec_of_wants hd hwants fun straps e => by
    rw [e] at hk
    cases hk
  refine ⟨_, hexec.trans (congrArg _ hdue), ends_finish ?_⟩
  exact (executed_spec (hnumbered.trans hn) hroom q rest a).2.2.1

/-! ## The holder's lease -/

section
variable {q : Request} {s : State} {h : Session}

theorem renewLease_of_holder (hs : s.session = some h) (hh : h.holder = q.station) :
    renewLease q s = { s with session := some (h.renewed q s.now h.staged) } := by
  rw [renewLease, hs]
  exact if_pos hh

theorem renewLease_of_other (hs : s.session = some h) (hh : h.holder ≠ q.station) : renewLease q s = s := by
  rw [renewLease, hs]
  exact if_neg hh

theorem renewLease_of_closed (hs : s.session = none) : renewLease q s = s := by rw [renewLease, hs]

/-- Authority is read from the Station Table, which a lease does not touch (R136). -/
@[simp] theorem permits_renewLease (q : Request) (s : State) (n : Nat) : (renewLease q s).permits n = s.permits n := by
  unfold renewLease
  split
  · split <;> rfl
  · rfl

/-- The permitted holder holds the session that its request has renewed (R137, R138). -/
theorem State.holds.renewed (hh : s.holds q h) :
    renewLease q s = { s with session := some (h.renewed q s.now h.staged) }
      ∧ holderTests q (renewLease q s) = .ok (h.renewed q s.now h.staged) := by
  obtain ⟨hp, hs, hst⟩ := hh
  have hr := renewLease_of_holder hs hst
  refine ⟨hr, holderTests_eq_ok.mpr ⟨(permits_renewLease ..).trans hp, ?_, hst⟩⟩
  rw [hr]

/-! ## The tests before the arguments -/

theorem holderTests_not_permitted (hp : s.permits q.station = false) : holderTests q s = .error .notManager := if_pos hp

theorem holderTests_closed (hp : s.permits q.station = true) (hs : s.session = none) :
    holderTests q s = .error .noSession := by
  simp [holderTests, hp, hs]

theorem holderTests_other (hp : s.permits q.station = true) (hs : s.session = some h) (hh : h.holder ≠ q.station) :
    holderTests q s = .error .notHolder := by
  simp [holderTests, hp, hs, hh]

/-- A command of a session that fails the tests of R138 has no effect. -/
theorem carryOut_of_error {cmd : Command} {o : OutcomeCode} (ht : holderTests q s = .error o)
    (hc : cmd ∈ [Command.closeSession, .stageStation, .unstageStation, .stageGroups, .stageParams, .commit]) :
    carryOut cmd q s = (s, plainAnswer o) := by
  simp only [List.mem_cons, List.not_mem_nil, or_false] at hc
  rcases hc with rfl | rfl | rfl | rfl | rfl | rfl
  · rw [carryOut, doCloseSession, ht]
  · rw [carryOut, doStageStation, ht]
  · rw [carryOut, doUnstageStation, ht]
  · rw [carryOut, doStageGroups, ht]
  · rw [carryOut, doStageParams, ht]
  · rw [carryOut, doCommit, ht]

/-- The other changing commands test authority alone before their arguments (R139, R158, R177). -/
theorem carryOut_of_not_permitted {cmd : Command} (hp : s.permits q.station = false)
    (hc : cmd ∈ [Command.openSession, .purge, .restart, .setEventStation, .setEventMask, .clearEvents]) :
    carryOut cmd q s = (s, plainAnswer .notManager) := by
  simp only [List.mem_cons, List.not_mem_nil, or_false] at hc
  rcases hc with rfl | rfl | rfl | rfl | rfl | rfl
  all_goals exact if_pos hp

end

/-- Who is permitted (R136): every station while no LOADED entry manages, else those with such an entry. -/
theorem permits_iff (s : State) (n : Nat) : s.permits n = true ↔
    (¬ ∃ e ∈ s.stations, e.origin = .loaded ∧ e.manage = true)
      ∨ ∃ e ∈ s.stations, e.origin = .loaded ∧ e.manage = true ∧ e.station = n := by
  simp only [State.permits, State.managed, StationEntry.isLoaded, Bool.or_eq_true, Bool.not_eq_true', List.any_eq_false,
    List.any_eq_true, Bool.and_eq_true, beq_iff_eq, and_assoc, not_exists, not_and]

/-! ## OPEN_SESSION -/

section
variable {q : Request} {s : State} {lease : Nat}

/-- The lease asked for: LEASE without an argument, or an argument other than 0 (R139). -/
def State.asksLease (s : State) (q : Request) (lease : Nat) : Prop :=
  (q.args = [] ∧ lease = s.params.lease) ∨ ∃ l extra, q.args = l :: extra ∧ l ≠ 0#8 ∧ lease = l.toNat

theorem leaseArgument_of_asks (h : s.asksLease q lease) :
    ∃ argument, leaseArgument q.args = some argument ∧ argument.getD s.params.lease = lease := by
  rcases h with ⟨ha, rfl⟩ | ⟨l, extra, ha, hl, rfl⟩
  · exact ⟨none, by rw [ha]; rfl, rfl⟩
  · refine ⟨some l.toNat, ?_, rfl⟩
    rw [ha]
    exact if_neg fun e => hl (BitVec.eq_of_toNat_eq e)

theorem openResults_eq (lease : Nat) (s : State) :
    openResults lease s = beBytes 2 s.epoch.toNat ++ [BitVec.ofNat 8 lease] := by simp [openResults, beBytes]

/-- With no session open a session is opened on a copy of the active configuration (R139). -/
theorem doOpenSession_closed (hp : s.permits q.station = true) (ha : s.asksLease q lease) (hs : s.session = none) :
    doOpenSession q s =
      ({ s with session := some { holder := q.station, side := q.side, lease := lease
                                  leaseEnd := s.now + lease * 1000000, staged := s.activeCopy } },
        doneWith (beBytes 2 s.epoch.toNat ++ [BitVec.ofNat 8 lease])) := by
  obtain ⟨argument, hargs, rfl⟩ := leaseArgument_of_asks ha
  rw [doOpenSession, if_neg (by simp [hp]), hargs, ← openResults_eq, hs]
  rfl

/-- The holder's own session is resumed with the lease asked for (R139). -/
theorem doOpenSession_holder {c : Session} (hp : s.permits q.station = true) (ha : s.asksLease q lease)
    (hs : s.session = some c) (hc : c.holder = q.station) :
    doOpenSession q s =
      ({ s with session := some { c with side := q.side, lease := lease, leaseEnd := s.now + lease * 1000000 } },
        { outcome := .resumed, results := beBytes 2 s.epoch.toNat ++ [BitVec.ofNat 8 lease] }) := by
  obtain ⟨argument, hargs, rfl⟩ := leaseArgument_of_asks ha
  rw [doOpenSession, if_neg (by simp [hp]), hargs, ← openResults_eq, hs]
  exact if_pos hc

/-- Another station's session holds the requester off (R139). -/
theorem doOpenSession_other {c : Session} (hp : s.permits q.station = true) (ha : s.asksLease q lease)
    (hs : s.session = some c) (hc : c.holder ≠ q.station) :
    doOpenSession q s = (s, { outcome := .sessionHeld, results := beBytes 2 c.holder }) := by
  obtain ⟨argument, hargs, rfl⟩ := leaseArgument_of_asks ha
  rw [doOpenSession, if_neg (by simp [hp]), hargs, hs]
  exact if_neg hc

theorem doOpenSession_zero {extra : List Byte} (hp : s.permits q.station = true) (ha : q.args = 0#8 :: extra) :
    doOpenSession q s = (s, badArgument 0) := by
  rw [doOpenSession, if_neg (by simp [hp]), ha]
  rfl

end

end Sys2Proof.Machine

namespace Sys2Proof.Settled

open Sys2Proof.Machine

/-- Settles O40: the session closes at the lease's end, and the step ends. -/
theorem leaseExpiry : Obligations.LeaseExpiry := fun _ _ hready hn hs =>
  fromTimer_endsAs hready (leaseEnds_of_session hs) hn

/-- Settles O51: the refusals by authority, session and holder, and who is permitted. -/
theorem refusedCommands : Obligations.RefusedCommands := by
  refine ⟨fun c cmd s q rest hn he hc hq => ?_, permits_iff⟩
  intro refused ofSession
  have hends : ∀ {o}, carryOut cmd q (renewLease q s) = (renewLease q s, plainAnswer o) → refused o :=
    fun h => execution_endsAs hn he hc hq h
  refine ⟨fun hcmd hmanaged hnot => ?_, fun hcmd hp hs => ?_, fun h hcmd hp hs hh => ?_⟩
  · have hp : (renewLease q s).permits q.station = false := by
      rw [permits_renewLease, Bool.eq_false_iff, Ne, permits_iff]
      rintro (h | ⟨e, he, hl, hm, hst⟩)
      exacts [h hmanaged, hnot e he hl hm hst]
    rcases hcmd with hcmd | hcmd
    · exact hends (carryOut_of_error (holderTests_not_permitted hp) hcmd)
    · exact hends (carryOut_of_not_permitted hp hcmd)
  · refine hends (carryOut_of_error ?_ hcmd)
    rw [renewLease_of_closed hs]
    exact holderTests_closed hp hs
  · refine hends (carryOut_of_error ?_ hcmd)
    rw [renewLease_of_other hs hh]
    exact holderTests_other hp hs hh

/-- Settles O50: CLOSE_SESSION by the holder of the open session, if one is. -/
theorem closeSession : Obligations.CloseSession := by
  intro s q rest hn he hq hp gives
  have hends : ∀ {s' o}, carryOut .closeSession q (renewLease q s) = (s', plainAnswer o) → gives o s' :=
    fun h => execution_endsAs hn he rfl hq h
  refine ⟨fun h hs hh => hends ?_, fun h hs hh => hends ?_, fun hs => hends ?_⟩
  · obtain ⟨hrenewed, htests⟩ := State.holds.renewed ⟨hp, hs, hh⟩
    rw [carryOut, doCloseSession, htests, hrenewed]
    rfl
  · rw [renewLease_of_other hs hh]
    exact carryOut_of_error (holderTests_other hp hs hh) (by simp)
  · rw [renewLease_of_closed hs]
    exact carryOut_of_error (holderTests_closed hp hs) (by simp)

/-- Settles O49: OPEN_SESSION by the session that is open, and lease 0. -/
theorem openSession : Obligations.OpenSession := by
  refine ⟨fun s q rest lease hn he hq hp => ?_, fun _ => rfl⟩
  intro gives asked leaseEnd
  have hends : ∀ {s' o results}, doOpenSession q (renewLease q s) = (s', { outcome := o, results := results }) →
      gives o results s' := fun h => execution_endsAs hn he rfl hq h
  refine ⟨fun ha hs => hends ?_, fun h ha hs hh => hends ?_, fun h ha hs hh => hends ?_, fun extra ha => hends ?_⟩
  · rw [renewLease_of_closed hs]
    exact doOpenSession_closed hp ha hs
  · rw [renewLease_of_holder hs hh]
    exact doOpenSession_holder (s := { s with session := some (h.renewed q s.now h.staged) })
      (c := h.renewed q s.now h.staged) hp ha rfl hh
  · rw [renewLease_of_other hs hh]
    exact doOpenSession_other hp ha hs hh
  · exact doOpenSession_zero ((permits_renewLease ..).trans hp) ha

end Sys2Proof.Settled
end

section
/-! SUPPORT. The arguments of a request as numbers (R183), the commands of the session's holder, and the statement on
STAGE_STATION and UNSTAGE_STATION (R142, R143). -/

namespace Sys2Proof.Machine

/-! ## Numbers in bytes -/

theorem length_beBytes (k n : Nat) : (beBytes k n).length = k := by
  induction k with
  | zero => rfl
  | succ k ih => rw [beBytes, List.length_cons, ih]

/-- A byte before others counts 256 for each of them. -/
theorem beNat_cons (b : Byte) (bytes : List Byte) :
    beNat (b :: bytes) = b.toNat * 256 ^ bytes.length + beNat bytes := by
  have hfrom : ∀ (bytes : List Byte) (acc : Nat),
      bytes.foldl (fun acc b => acc * 256 + b.toNat) acc = acc * 256 ^ bytes.length + beNat bytes := by
    intro bytes
    induction bytes with
    | nil => simp [beNat]
    | cons c bytes ih =>
      intro acc
      have hself : beNat (c :: bytes) = (0 * 256 + c.toNat) * 256 ^ bytes.length + beNat bytes := ih _
      rw [List.foldl_cons, ih, hself, List.length_cons]
      ring
  rw [beNat, List.foldl_cons, hfrom]
  simp

theorem beNat_pair (b1 b0 : Byte) : beNat [b1, b0] = b1.toNat * 256 + b0.toNat := by simp [beNat]

/-- A number that fits its bytes is read back. -/
theorem beNat_beBytes {k n : Nat} (h : n < 256 ^ k) : beNat (beBytes k n) = n := by
  have hmod : ∀ k, beNat (beBytes k n) = n % 256 ^ k := by
    intro k
    induction k with
    | zero => simp [beBytes, beNat, Nat.mod_one]
    | succ k ih =>
      rw [beBytes, beNat_cons, ih, length_beBytes, BitVec.toNat_ofNat, show 2 ^ 8 = 256 from rfl, Nat.pow_succ 256 k,
        Nat.mod_mul, Nat.add_comm, Nat.mul_comm (256 ^ k)]
  rw [hmod, Nat.mod_eq_of_lt h]

/-! ## Arguments (R183) -/

section
variable {args : List Byte} {off width v : Nat} {ok : Nat → Bool}

theorem argAt_of_short (h : args.length < off + width) : argAt args off width = none := if_neg (by omega)

/-- An argument is read from its place among the others. -/
theorem argAt_append (before arg after : List Byte) :
    argAt (before ++ arg ++ after) before.length arg.length = some (beNat arg) := by
  rw [argAt, if_pos (by simp)]
  simp

theorem argIn_of_ok (h : argAt args off width = some v) (hv : ok v = true) : argIn args off width ok = some v := by
  rw [argIn, h]
  exact if_pos hv

theorem argIn_of_bad (h : argAt args off width = some v) (hv : ok v = false) : argIn args off width ok = none := by
  rw [argIn, h]
  exact if_neg (by simp [hv])

theorem argIn_of_short (h : args.length < off + width) : argIn args off width ok = none := by
  rw [argIn, argAt_of_short h]

end

theorem argAt_byte (b : Byte) (after : List Byte) : argAt (b :: after) 0 1 = some b.toNat := by
  simpa [beNat] using argAt_append [] [b] after

theorem argAt_two (b1 b0 : Byte) (after : List Byte) :
    argAt (b1 :: b0 :: after) 0 2 = some (b1.toNat * 256 + b0.toNat) := by
  rw [← beNat_pair]
  exact argAt_append [] [b1, b0] after

/-! ## The commands of the holder -/

section
variable {k : Instr} {cmd : Command} {s : State} {q : Request} {rest : List Request} {h : Session} {staged : Staged}
  {o : OutcomeCode} {results : List Byte}

/-- A command of the permitted holder that leaves the session with a staged configuration: the one it had, or the one that the
command puts (R137, R141). -/
theorem holder_endsAs (hn : s.numbered = true) (he : s.executing q rest) (hk : executes k = some (some cmd))
    (hq : q.command = some cmd) (hh : s.holds q h)
    (hcarry : carryOut cmd q (renewLease q s)
      = (putStaged (h.renewed q s.now h.staged) staged (renewLease q s), { outcome := o, results := results })) :
    ∃ t, exec k s = .next t
      ∧ EndsAs (executed q rest { outcome := o, results := results }
          { s with session := some (h.renewed q s.now staged) }) t := by
  refine execution_endsAs hn he hk hq (hcarry.trans ?_)
  rw [hh.renewed.1]
  rfl

/-- A command of the permitted holder that changes nothing leaves the session with the staged configuration it had. -/
theorem holder_endsAs_unchanged (hn : s.numbered = true) (he : s.executing q rest) (hk : executes k = some (some cmd))
    (hq : q.command = some cmd) (hh : s.holds q h)
    (hcarry : carryOut cmd q (renewLease q s) = (renewLease q s, { outcome := o, results := results })) :
    ∃ t, exec k s = .next t
      ∧ EndsAs (executed q rest { outcome := o, results := results }
          { s with session := some (h.renewed q s.now h.staged) }) t := by
  refine holder_endsAs hn he hk hq hh (hcarry.trans ?_)
  rw [hh.renewed.1]
  rfl

end

/-! ## The entry that STAGE_STATION carries -/

@[simp] theorem sideOfCode_sideCode (x : Side) : sideOfCode (sideCode x) = some x := by cases x <;> rfl
@[simp] theorem flagOfCode_flagCode (b : Bool) : flagOfCode (flagCode b) = some b := by cases b <;> rfl

theorem sideOfCode_of_bad {c : Byte} (h : 1 < c.toNat) : sideOfCode c = none := by
  unfold sideOfCode
  split
  · omega
  · omega
  · rfl

theorem flagOfCode_of_bad {c : Byte} (h : 1 < c.toNat) : flagOfCode c = none := by
  unfold flagOfCode
  split
  · omega
  · omega
  · rfl

/-- A good entry is read back from its 6 bytes (R142, R185). -/
theorem stagedEntryOf_of_good {own : Nat} {e : StagedEntry} (h1 : 1 ≤ e.station) (h2 : e.station ≤ 1983)
    (hne : e.station ≠ own) (extra : List Byte) :
    stagedEntryOf own (beBytes 2 e.station ++ [sideCode e.side, flagCode e.admitPlain, flagCode e.admitConfirmed,
      flagCode e.manage] ++ extra) = some e := by
  have hnat : beNat (beBytes 2 e.station) = e.station := beNat_beBytes (by omega)
  simp only [beBytes] at hnat
  simp only [beBytes, List.cons_append, List.nil_append, stagedEntryOf, hnat, sideOfCode_sideCode, flagOfCode_flagCode]
  rw [if_pos]
  simp [isIndividual, h1, h2, hne]

theorem stagedEntryOf_of_short {own : Nat} {args : List Byte} (h : args.length < 6) : stagedEntryOf own args = none := by
  unfold stagedEntryOf
  split
  · simp at h
    omega
  · rfl

theorem stagedEntryOf_of_bad {own : Nat} {s1 s0 a b c d : Byte} {extra : List Byte}
    (h : s1.toNat * 256 + s0.toNat = 0 ∨ 1983 < s1.toNat * 256 + s0.toNat ∨ s1.toNat * 256 + s0.toNat = own
      ∨ 1 < a.toNat ∨ 1 < b.toNat ∨ 1 < c.toNat ∨ 1 < d.toNat) :
    stagedEntryOf own (s1 :: s0 :: a :: b :: c :: d :: extra) = none := by
  cases hread : stagedEntryOf own (s1 :: s0 :: a :: b :: c :: d :: extra) with
  | none => rfl
  | some e =>
    simp only [stagedEntryOf, beNat_pair] at hread
    split at hread
    · rename_i ha hb hc hd
      split at hread
      · rename_i hok
        simp only [isIndividual, Bool.and_eq_true, decide_eq_true_eq, bne_iff_ne] at hok
        rcases h with h | h | h | h | h | h | h
        · omega
        · omega
        · exact absurd h hok.2
        · simp [sideOfCode_of_bad h] at ha
        · simp [flagOfCode_of_bad h] at hb
        · simp [flagOfCode_of_bad h] at hc
        · simp [flagOfCode_of_bad h] at hd
      · cases hread
    · cases hread

/-! ## STAGE_STATION and UNSTAGE_STATION by their tests -/

section
variable {q : Request} {s : State} {c : Session} (ht : holderTests q s = .ok c)
include ht

theorem doStageStation_bad (h : stagedEntryOf s.own q.args = none) : doStageStation q s = (s, badArgument 0) := by
  rw [doStageStation, ht]
  simp only [h]

/-- A good entry takes its place when the list holds its station or has room (R142). -/
theorem doStageStation_good {e : StagedEntry} (h : stagedEntryOf s.own q.args = some e) :
    ((∃ g ∈ c.staged.entries, g.station = e.station) ∨ c.staged.entries.length < 256 →
      doStageStation q s = (putStaged c { c.staged with entries := insertBy StagedEntry.station e c.staged.entries } s,
        doneWith []))
      ∧ ((∀ g ∈ c.staged.entries, g.station ≠ e.station) → 256 ≤ c.staged.entries.length →
        doStageStation q s = (s, plainAnswer .tableFull)) := by
  have htest : (c.staged.entries.any (fun g => g.station == e.station)
      || decide (c.staged.entries.length < Config.stagedLimit)) = true
      ↔ (∃ g ∈ c.staged.entries, g.station = e.station) ∨ c.staged.entries.length < 256 := by
    simp only [Bool.or_eq_true, List.any_eq_true, beq_iff_eq, decide_eq_true_eq]
    rfl
  rw [doStageStation, ht]
  simp only [h]
  refine ⟨fun hroom => if_pos (htest.mpr hroom), fun hnew hfull => if_neg (htest.not.mpr ?_)⟩
  rintro (⟨g, hg, e⟩ | hlt)
  exacts [hnew g hg e, absurd hlt (by omega)]

theorem doUnstageStation_short (h : q.args.length < 2) : doUnstageStation q s = (s, badArgument 0) := by
  rw [doUnstageStation, ht]
  simp only [argAt_of_short (off := 0) (width := 2) h]

theorem doUnstageStation_spec {n : Nat} (h : argAt q.args 0 2 = some n) :
    ((∃ g ∈ c.staged.entries, g.station = n) →
      doUnstageStation q s = (putStaged c { c.staged with entries := c.staged.entries.filter (fun g => g.station != n) } s,
        doneWith []))
      ∧ ((∀ g ∈ c.staged.entries, g.station ≠ n) → doUnstageStation q s = (s, plainAnswer .notFound)) := by
  have htest : c.staged.entries.any (fun g => g.station == n) = true ↔ ∃ g ∈ c.staged.entries, g.station = n := by
    simp only [List.any_eq_true, beq_iff_eq]
  rw [doUnstageStation, ht]
  simp only [h]
  refine ⟨fun hin => if_pos (htest.mpr hin), fun hno => if_neg (htest.not.mpr ?_)⟩
  rintro ⟨g, hg, e⟩
  exact hno g hg e

end

end Sys2Proof.Machine

namespace Sys2Proof.Settled

open Sys2Proof.Machine

/-- Settles O52: STAGE_STATION and UNSTAGE_STATION by their arguments and the staged list, and the place an entry takes. -/
theorem stagedStations : Obligations.StagedStations := by
  refine ⟨fun s q rest h hn he hh => ?_, fun e list hasc =>
    ⟨ascending_insertBy e hasc, fun g => mem_insertBy_iff hasc⟩, rfl, rfl, rfl, rfl⟩
  intro gives list
  obtain ⟨hrenewed, htests⟩ := hh.renewed
  have hown : (renewLease q s).own = s.own := by rw [hrenewed]
  refine ⟨fun hq => ?_, fun hq => ?_⟩
  · have hends : ∀ {o results entries}, doStageStation q (renewLease q s)
        = (putStaged (h.renewed q s.now h.staged) { h.staged with entries := entries } (renewLease q s),
          { outcome := o, results := results }) → gives .stageStation o results entries :=
      fun hd => holder_endsAs hn he rfl hq hh hd
    have hrefused : ∀ {o results}, doStageStation q (renewLease q s)
        = (renewLease q s, { outcome := o, results := results }) → gives .stageStation o results list :=
      fun hd => holder_endsAs_unchanged hn he rfl hq hh hd
    refine ⟨fun e extra hargs h1 h2 hne => ?_, fun hshort => ?_, fun s1 s0 a b c d extra hargs hbad => ?_⟩
    · have hentry : stagedEntryOf (renewLease q s).own q.args = some e := by
        rw [hown, hargs]
        exact stagedEntryOf_of_good h1 h2 hne extra
      obtain ⟨hroom, hfull⟩ := doStageStation_good htests hentry
      exact ⟨fun hr => hends (hroom hr), fun hnew hlen => hrefused (hfull hnew hlen)⟩
    · exact hrefused (doStageStation_bad htests (stagedEntryOf_of_short hshort))
    · refine hrefused (doStageStation_bad htests ?_)
      rw [hown, hargs]
      exact stagedEntryOf_of_bad hbad
  · have hends : ∀ {o results entries}, doUnstageStation q (renewLease q s)
        = (putStaged (h.renewed q s.now h.staged) { h.staged with entries := entries } (renewLease q s),
          { outcome := o, results := results }) → gives .unstageStation o results entries :=
      fun hd => holder_endsAs hn he rfl hq hh hd
    have hrefused : ∀ {o results}, doUnstageStation q (renewLease q s)
        = (renewLease q s, { outcome := o, results := results }) → gives .unstageStation o results list :=
      fun hd => holder_endsAs_unchanged hn he rfl hq hh hd
    refine ⟨fun n1 n0 extra hargs => ?_, fun hshort => hrefused (doUnstageStation_short htests hshort)⟩
    intro n
    obtain ⟨hin, hno⟩ := doUnstageStation_spec htests (n := n) (by rw [hargs]; exact argAt_two n1 n0 extra)
    exact ⟨fun hg => hends (hin hg), fun hg => hrefused (hno hg)⟩

end Sys2Proof.Settled
end

section
/-! SUPPORT. The parameters by their identifiers (R134, R187), lists of pairs (R145), and the statement on STAGE_GROUPS and
STAGE_PARAMS (R144, R145). -/

namespace Sys2Proof.Machine

/-! ## The eighteen parameters -/

theorem set_of_unnamed (p : Params) (v : Nat) : p.set 0 v = none ∧ ∀ i, 0x13 ≤ i → p.set i v = none := by
  refine ⟨rfl, fun i hi => ?_⟩
  obtain ⟨j, rfl⟩ := Nat.exists_eq_add_of_le' hi
  rfl

theorem inRange_map {α : Type} (low high v : Nat) (f : Nat → α) :
    (inRange low high v).map f = if low ≤ v ∧ v ≤ high then some (f v) else none := by
  unfold inRange
  split <;> rfl

/-- A range from 0 bounds its values from above alone. -/
theorem inRange_zero_map {α : Type} (high v : Nat) (f : Nat → α) :
    (inRange 0 high v).map f = if v ≤ high then some (f v) else none := by
  simp only [inRange_map, Nat.zero_le, true_and]

/-! ## Lists of pairs (R145) -/

/-- The bytes of a list of pairs: each an identifier and two bytes of its value. -/
def pairsBytes (pairs : List (Byte × Nat)) : List Byte := pairs.flatMap fun a => a.1 :: beBytes 2 a.2

/-- The parameters with a list of pairs set in order; none when one of them is bad. -/
def Params.setPairs (p : Params) (pairs : List (Byte × Nat)) : Option Params :=
  pairs.foldlM (fun (p : Params) (a : Byte × Nat) => p.set a.1.toNat a.2) p

section
variable {i : Nat} {a : Byte × Nat} {p p' : Params} (after : List Byte)

theorem stagePairs_of_set (ha : a.2 < 65536) (hset : p.set a.1.toNat a.2 = some p') :
    stagePairs i (a.1 :: (beBytes 2 a.2 ++ after)) p = stagePairs (i + 1) after p' := by
  have hvalue : beNat (beBytes 2 a.2) = a.2 := beNat_beBytes ha
  simp only [beBytes] at hvalue
  simp only [beBytes, List.cons_append, List.nil_append, stagePairs, hvalue, hset]

theorem stagePairs_of_set_none (ha : a.2 < 65536) (hset : p.set a.1.toNat a.2 = none) :
    stagePairs i (a.1 :: (beBytes 2 a.2 ++ after)) p = .error i := by
  have hvalue : beNat (beBytes 2 a.2) = a.2 := beNat_beBytes ha
  simp only [beBytes] at hvalue
  simp only [beBytes, List.cons_append, List.nil_append, stagePairs, hvalue, hset]

end

/-- Good pairs are staged in order, and the list goes on after them. -/
theorem stagePairs_append {pairs : List (Byte × Nat)} {after : List Byte} {p p' : Params} {i : Nat}
    (hp : ∀ a ∈ pairs, a.2 < 65536) (hset : p.setPairs pairs = some p') :
    stagePairs i (pairsBytes pairs ++ after) p = stagePairs (i + pairs.length) after p' := by
  induction pairs generalizing i p with
  | nil =>
    cases hset
    rfl
  | cons a pairs ih =>
    obtain ⟨p1, h1, h2⟩ := Option.bind_eq_some_iff.mp hset
    rw [pairsBytes, List.flatMap_cons, List.cons_append, List.cons_append, List.append_assoc,
      stagePairs_of_set _ (hp a List.mem_cons_self) h1]
    refine (ih (fun b hb => hp b (List.mem_cons_of_mem _ hb)) h2).trans ?_
    rw [List.length_cons, Nat.add_right_comm, Nat.add_assoc]

/-- A list of good pairs is staged whole. -/
theorem stagePairs_of_good {pairs : List (Byte × Nat)} {p p' : Params} (hp : ∀ a ∈ pairs, a.2 < 65536)
    (hset : p.setPairs pairs = some p') : stagePairs 0 (pairsBytes pairs) p = .ok p' := by
  have h := stagePairs_append (after := []) (i := 0) hp hset
  rwa [List.append_nil, stagePairs] at h

/-- The first bad pair refuses the list by its number. -/
theorem stagePairs_of_bad {pairs after : List (Byte × Nat)} {a : Byte × Nat} {p p' : Params}
    (hp : ∀ b ∈ pairs ++ a :: after, b.2 < 65536) (hset : p.setPairs pairs = some p')
    (hbad : p'.set a.1.toNat a.2 = none) :
    stagePairs 0 (pairsBytes (pairs ++ a :: after)) p = .error pairs.length := by
  rw [pairsBytes, List.flatMap_append, List.flatMap_cons, List.cons_append]
  refine (stagePairs_append (fun b hb => hp b (List.mem_append_left _ hb)) hset).trans ?_
  rw [stagePairs_of_set_none _ (hp a (by simp)) hbad, Nat.zero_add]

/-- A pair cut short refuses the list by its number. -/
theorem stagePairs_of_cut {pairs : List (Byte × Nat)} {cut : List Byte} {p p' : Params} (hp : ∀ a ∈ pairs, a.2 < 65536)
    (hset : p.setPairs pairs = some p') (hcut : cut.length = 1 ∨ cut.length = 2) :
    stagePairs 0 (pairsBytes pairs ++ cut) p = .error pairs.length := by
  rw [stagePairs_append hp hset, Nat.zero_add]
  rcases hcut with h | h
  · obtain ⟨b, rfl⟩ := List.length_eq_one_iff.mp h
    rfl
  · obtain ⟨b, c, rfl⟩ := List.length_eq_two.mp h
    rfl

/-! ## STAGE_GROUPS and STAGE_PARAMS by their tests -/

section
variable {q : Request} {s : State} {c : Session} (ht : holderTests q s = .ok c)
include ht

theorem doStageGroups_bad_direction (h : argIn q.args 0 1 (fun v => v ≤ 1) = none) :
    doStageGroups q s = (s, badArgument 0) := by
  rw [doStageGroups, ht]
  simp only [h]

theorem doStageGroups_bad_set {d : Nat} (hd : argIn q.args 0 1 (fun v => v ≤ 1) = some d)
    (hg : argIn q.args 1 8 (fun v => v < 2 ^ 63) = none) : doStageGroups q s = (s, badArgument 1) := by
  rw [doStageGroups, ht]
  simp only [hd, hg]

theorem doStageGroups_good {d g : Nat} (hd : argIn q.args 0 1 (fun v => v ≤ 1) = some d)
    (hg : argIn q.args 1 8 (fun v => v < 2 ^ 63) = some g) :
    doStageGroups q s =
      (putStaged c (if d = 0 then { c.staged with groupsAB := BitVec.ofNat 63 g }
        else { c.staged with groupsBA := BitVec.ofNat 63 g }) s, doneWith []) := by
  rw [doStageGroups, ht]
  simp only [hd, hg]

theorem doStageParams_good {p : Params} (h : stagePairs 0 q.args c.staged.params = .ok p) :
    doStageParams q s = (putStaged c { c.staged with params := p } s, doneWith []) := by
  rw [doStageParams, ht]
  simp only [h]

theorem doStageParams_bad {i : Nat} (h : stagePairs 0 q.args c.staged.params = .error i) :
    doStageParams q s = (s, badArgument i) := by
  rw [doStageParams, ht]
  simp only [h]

end

/-- A group set is read from its 8 bytes after the direction. -/
theorem argAt_groups (d : Byte) {g : Nat} (extra : List Byte) (hg : g < 2 ^ 64) :
    argAt (d :: beBytes 8 g ++ extra) 1 8 = some g := by
  have h := argAt_append [d] (beBytes 8 g) extra
  rwa [length_beBytes, beNat_beBytes hg] at h

end Sys2Proof.Machine

namespace Sys2Proof.Settled

open Sys2Proof.Machine

/-- Settles O53: STAGE_GROUPS by its direction and its set, STAGE_PARAMS by the first bad pair of its list, and the eighteen
parameters. -/
theorem stagedGroupsAndParams : Obligations.StagedGroupsAndParams := by
  refine ⟨fun s q rest h hn he hh => ?_, fun p v => ⟨(set_of_unnamed p v).1, (set_of_unnamed p v).2, ?_⟩⟩
  · intro gives bytesOf set
    obtain ⟨-, htests⟩ := hh.renewed
    refine ⟨fun hq => ?_, fun hq => ?_⟩
    · have hends : ∀ {o results staged}, doStageGroups q (renewLease q s)
          = (putStaged (h.renewed q s.now h.staged) staged (renewLease q s), { outcome := o, results := results }) →
          gives .stageGroups o results staged := fun hd => holder_endsAs hn he rfl hq hh hd
      have hrefused : ∀ {o results}, doStageGroups q (renewLease q s)
          = (renewLease q s, { outcome := o, results := results }) → gives .stageGroups o results h.staged :=
        fun hd => holder_endsAs_unchanged hn he rfl hq hh hd
      have hbad : ∀ {d : Byte} {after}, q.args = d :: after → 1 < d.toNat →
          gives .stageGroups .badArgument [0] h.staged := fun {d after} hargs hd =>
        hrefused (doStageGroups_bad_direction htests
          (argIn_of_bad (hargs ▸ argAt_byte d after) (decide_eq_false (by omega))))
      have hdirection : ∀ {d : Byte} {after}, q.args = d :: after → d.toNat ≤ 1 →
          argIn q.args 0 1 (fun v => v ≤ 1) = some d.toNat := fun {d after} hargs hd =>
        argIn_of_ok (hargs ▸ argAt_byte d after) (decide_eq_true hd)
      refine ⟨fun d g extra hargs hg => ⟨hbad hargs, fun hd hbig => ?_, fun hsmall e => ?_, fun hsmall e => ?_⟩,
        fun hargs => ?_, fun d short hargs hshort => ⟨hbad hargs, fun hd => ?_⟩⟩
      · exact hrefused (doStageGroups_bad_set htests (hdirection hargs hd)
          (argIn_of_bad (hargs ▸ argAt_groups d extra hg) (decide_eq_false (by omega))))
      · subst e
        exact hends (doStageGroups_good htests (hdirection hargs (by decide))
          (argIn_of_ok (hargs ▸ argAt_groups 0#8 extra hg) (decide_eq_true hsmall)))
      · subst e
        exact hends (doStageGroups_good htests (hdirection hargs (by decide))
          (argIn_of_ok (hargs ▸ argAt_groups 1#8 extra hg) (decide_eq_true hsmall)))
      · exact hrefused (doStageGroups_bad_direction htests (argIn_of_short (by simp [hargs])))
      · exact hrefused (doStageGroups_bad_set htests (hdirection hargs hd)
          (argIn_of_short (by simp [hargs]; omega)))
    · have hrefused : ∀ {i}, stagePairs 0 q.args h.staged.params = .error i →
          gives .stageParams .badArgument [BitVec.ofNat 8 i] h.staged :=
        fun hd => holder_endsAs_unchanged hn he rfl hq hh (doStageParams_bad htests hd)
      refine ⟨fun pairs p hargs hv hset => ?_, fun pairs a p after hargs hv hset hbad => ?_,
        fun pairs cut p hargs hv hset h1 h2 => ?_⟩
      · exact holder_endsAs hn he rfl hq hh
          (doStageParams_good htests (hargs ▸ stagePairs_of_good hv hset))
      · exact hrefused (hargs ▸ stagePairs_of_bad hv hset hbad)
      · exact hrefused (hargs ▸ stagePairs_of_cut hv hset (by omega))
  · refine ⟨?_, ?_, ?_, ?_, ?_, ?_, ?_, inRange_map .., inRange_map .., inRange_map .., inRange_zero_map .., inRange_map ..,
      inRange_map .., inRange_map .., inRange_map .., inRange_zero_map .., inRange_map .., inRange_map ..⟩
    · rcases v with _ | _ | v <;> rfl
    · rcases v with _ | _ | _ | v <;> rfl
    · rcases v with _ | _ | v <;> rfl
    · rcases v with _ | _ | v <;> rfl
    · rcases v with _ | _ | v <;> rfl
    · rcases v with _ | _ | v <;> rfl
    · rcases v with _ | _ | _ | _ | v <;> rfl

end Sys2Proof.Settled
end

section
/-! SUPPORT. What a commit carried out leaves (R147, R148), and the statement on COMMIT. -/

namespace Sys2Proof.Machine

/-! ## The configuration installed -/

/-- The state when a commit has installed the staged configuration and latched COMMITTED; no record has been withdrawn yet
(R147). -/
def committed (staged : Staged) (s : State) : State := latch .committed (expireDups (installConfig staged s))

theorem committed_eq (staged : Staged) (s : State) : committed staged s =
    { s with
      stations := mergeStations staged.entries s.stations
      groupsAB := staged.groupsAB, groupsBA := staged.groupsBA, params := staged.params
      epoch := if s.epoch = 0xFFFF#16 then 1#16 else s.epoch + 1
      latched := s.latched ||| 0x0200#16
      dups := s.dups.filter (fun e => decide (s.now < e.lastUse + staged.params.dupHold * 1000)) } := by
  rw [committed, installConfig]
  generalize mergeStations staged.entries s.stations = table
  rfl

theorem numbered_committed (staged : Staged) (s : State) : (committed staged s).numbered = s.numbered :=
  numbered_of_records (by simp only [committed, latch, expireDups, installConfig])

/-! ## The session settled -/

theorem permits_of_stations {s t : State} (h : t.stations = s.stations) (n : Nat) : t.permits n = s.permits n := by
  simp only [State.permits, State.managed, h]

theorem activeCopy_of_keeps {s t : State} (hc : KeepsConfig s t) (hst : t.stations = s.stations) :
    t.activeCopy = s.activeCopy := by
  obtain ⟨-, -, hparams, hab, hba, -⟩ := hc
  simp only [State.activeCopy, State.loadedEntries, hst, hparams, hab, hba]

/-- The session after a commit (R148), by the configuration committed. -/
def settledSession (keepOpen : Bool) (c : Session) (s : State) : Option Session :=
  if keepOpen = true ∧ s.permits c.holder = true then some { c with staged := s.activeCopy } else none

theorem settleSession_eq (keepOpen : Bool) (c : Session) (s : State) :
    settleSession keepOpen c s = { s with session := settledSession keepOpen c s } := by
  unfold settleSession settledSession
  split <;> rfl

theorem State.holds.settled {s : State} {q : Request} {h : Session} (hh : s.holds q h) (keepOpen : Bool) (now : Nat)
    (staged : Staged) (t : State) : settledSession keepOpen (h.renewed q now staged) t
      = if keepOpen = true ∧ t.permits q.station = true then some (h.renewed q now t.activeCopy) else none := by
  obtain ⟨-, -, hholder⟩ := hh
  rw [← hholder]
  rfl

/-- The route check changes nothing that settles the session. -/
theorem settledSession_routeCheck (keepOpen : Bool) (c : Session) (chosen : Record → Bool) (s : State) :
    settledSession keepOpen c (routeCheck chosen s) = settledSession keepOpen c s := by
  have hst := routeCheck_stations chosen s
  rw [settledSession, permits_of_stations hst, activeCopy_of_keeps (routeCheck_keepsConfig chosen s) hst]
  rfl

/-! ## A commit carried out -/

/-- A commit withdraws the FORWARD records that the committed configuration leaves UNROUTED, the arbiters run, and the session
is settled (R147, R148). -/
theorem carryOutCommit_spec (keepOpen : Bool) (c : Session) {s : State} (hs : s.numbered = true) :
    ∃ v, Withdrawn .unrouted (fun r => r.origin == .forward && (committed c.staged s).unrouted r) (committed c.staged s) v
      ∧ carryOutCommit keepOpen c s
        = { arbitrateBoth v with session := settledSession keepOpen c (committed c.staged s) } := by
  obtain ⟨v, hv, hw⟩ := routeCheck_spec (fun _ => true) ((numbered_committed c.staged s).trans hs)
  simp only [Bool.and_true] at hw
  refine ⟨v, hw, ?_⟩
  have hcarry : carryOutCommit keepOpen c s
      = settleSession keepOpen c (routeCheck (fun _ => true) (committed c.staged s)) := rfl
  rw [hcarry, settleSession_eq, settledSession_routeCheck, hv]

/-- The results of a commit: the epoch committed and whether the session stays open (R146). -/
theorem carryOutCommit_results (keepOpen : Bool) (c : Session) {s : State} (hs : s.numbered = true) :
    (carryOutCommit keepOpen c s).epoch = (committed c.staged s).epoch
      ∧ flagCode (carryOutCommit keepOpen c s).session.isSome
        = if keepOpen = true ∧ (committed c.staged s).permits c.holder = true then 1#8 else 0#8 := by
  obtain ⟨v, hw, heq⟩ := carryOutCommit_spec keepOpen c hs
  obtain ⟨-, -, -, -, -, hepoch⟩ := hw.rest.1.trans (arbitrateBoth_keepsConfig v)
  rw [heq]
  refine ⟨hepoch, ?_⟩
  unfold settledSession
  split <;> rfl

/-! ## COMMIT by its tests -/

section
variable {q : Request} {s : State} {c : Session} (ht : holderTests q s = .ok c)
include ht

theorem doCommit_short (h : q.args.length < 2) : doCommit q s = (s, badArgument 0) := by
  rw [doCommit, ht]
  simp only [argAt_of_short (off := 0) (width := 2) h]

theorem doCommit_bad_keep {expected : Nat} (he : argAt q.args 0 2 = some expected)
    (hk : argIn q.args 2 1 (fun v => v ≤ 1) = none) : doCommit q s = (s, badArgument 1) := by
  rw [doCommit, ht]
  simp only [he, hk]

theorem doCommit_stale {expected keep : Nat} (he : argAt q.args 0 2 = some expected)
    (hk : argIn q.args 2 1 (fun v => v ≤ 1) = some keep) (hne : expected ≠ s.epoch.toNat) :
    doCommit q s = (s, { outcome := .stale, results := beBytes 2 s.epoch.toNat }) := by
  rw [doCommit, ht]
  simp only [he, hk]
  exact if_neg hne

theorem doCommit_good {keep : Nat} (he : argAt q.args 0 2 = some s.epoch.toNat)
    (hk : argIn q.args 2 1 (fun v => v ≤ 1) = some keep) (hs : s.numbered = true) :
    doCommit q s = (carryOutCommit (keep == 1) c s,
      doneWith (beBytes 2 (committed c.staged s).epoch.toNat
        ++ [if (keep == 1) = true ∧ (committed c.staged s).permits c.holder = true then 1#8 else 0#8])) := by
  obtain ⟨hepoch, hopen⟩ := carryOutCommit_results (keep == 1) c hs
  rw [← hepoch, ← hopen, doCommit, ht]
  simp only [he, hk, if_true]

end

/-! ## The merge, and the test of the route check -/

theorem unrouted_iff (s : State) (r : Record) : s.unrouted r = true ↔
    s.params.mode = .isolate
      ∨ (∃ e, s.lookup r.destination = some e ∧ (e.side = r.inSide ∨ e.admitConfirmed = false))
      ∨ (s.lookup r.destination = none ∧ s.params.unknownPolicy ≠ .pass) := by
  unfold State.unrouted
  cases s.lookup r.destination <;> simp

/-- A LEARNED entry beside the staged ones is in the merged table when it keeps its place (R71). -/
theorem mem_mergeStations_learned {staged : List StagedEntry} {table : List StationEntry}
    (hs : ascending StagedEntry.station staged = true) (ht : ascending StationEntry.station table = true) {e : StationEntry}
    {i : Nat} (he : e.origin = .learned i) : e ∈ mergeStations staged table ↔ e ∈ learnedKept staged table := by
  obtain ⟨-, -, hmem⟩ := mergeStations_spec hs ht
  refine (hmem e).trans (or_iff_right ?_)
  rintro ⟨g, -, rfl⟩
  cases he

theorem outlasts_iff {e f : StationEntry} {i j : Nat} (he : e.origin = .learned i) (hf : f.origin = .learned j) :
    e.outlasts f ↔ i < j ∨ (i = j ∧ e.station < f.station) := by
  simp only [StationEntry.outlasts, StationEntry.idle?, he, hf, Option.getD_some]

end Sys2Proof.Machine

namespace Sys2Proof.Settled

open Sys2Proof.Machine

/-- Settles O54: COMMIT by its arguments, the epoch and what a commit carried out leaves; the merge, and the test of the route
check. -/
theorem commit : Obligations.Commit := by
  refine ⟨fun s q rest h e1 e0 keep extra hn he hq hh hargs => ?_, fun staged table hs ht => ?_, unrouted_iff,
    fun s q rest h hn he hq hh => ?_⟩
  · intro expected s1
    obtain ⟨hrenewed, htests⟩ := hh.renewed
    have hepoch : s1.epoch = s.epoch := by simp only [s1, hrenewed]
    have hexpected : argAt q.args 0 2 = some expected := hargs ▸ argAt_two e1 e0 (keep :: extra)
    have hkeep : argAt q.args 2 1 = some keep.toNat := by
      rw [hargs]
      simpa [beNat] using argAt_append [e1, e0] [keep] extra
    refine ⟨fun hbad => ?_, fun hk hstale => ?_, fun hk hsame => ?_⟩
    · exact execution_endsAs hn he rfl hq
        (doCommit_bad_keep htests hexpected (argIn_of_bad hkeep (decide_eq_false (by omega))))
    · refine execution_endsAs hn he rfl hq (hepoch ▸ doCommit_stale htests hexpected
        (argIn_of_ok hkeep (decide_eq_true hk)) (hepoch ▸ hstale))
    · intro s2 s'
      have hs1 : s1.numbered = true := (congrArg State.numbered hrenewed).trans hn
      have hs2 : committed h.staged s1 = s2 := by
        simp only [s2, committed_eq]
        simp only [s1, hrenewed]
      have hflag : (keep.toNat == 1) = (keep == 1#8) := by
        rw [Bool.eq_iff_iff, beq_iff_eq, beq_iff_eq]
        exact BitVec.toNat_inj (y := 1#8)
      have hgood := doCommit_good htests (hexpected.trans (congrArg some (hsame.trans (congrArg _ hepoch.symm))))
        (argIn_of_ok hkeep (decide_eq_true hk)) hs1
      obtain ⟨v, hw, hs'⟩ := carryOutCommit_spec (keep == 1#8) (h.renewed q s.now h.staged) hs1
      have hstaged : (h.renewed q s.now h.staged).staged = h.staged := rfl
      have hholder : (h.renewed q s.now h.staged).holder = q.station := hh.2.2
      rw [hflag, hstaged, hholder, hs2] at hgood
      rw [hstaged, hs2, hh.settled] at hs'
      rw [hstaged, hs2] at hw
      clear_value s2
      simp only [beq_iff_eq] at hgood hs'
      obtain ⟨t, hexec, hends⟩ := execution_endsAs (k := .commit) hn he rfl hq hgood
      exact ⟨t, hexec, hends, v, hw, hs'⟩
  · intro merged learned
    have hlearned : learned = learnedBeside staged table := rfl
    obtain ⟨hasc, hlen, hmem⟩ := mergeStations_spec hs ht
    obtain ⟨-, hsub, hkept, hroom, hlast⟩ := learnedKept_spec staged ht
    rw [hlearned]
    refine ⟨hasc, fun g hg => (hmem _).mpr (.inl ⟨g, hg, rfl⟩), fun e he => ?_, fun hfit e he => ?_, fun hst hover => ?_,
      fun e he f hf i j hi hj hin hout => ?_⟩
    · rcases (hmem e).mp he with ⟨g, hg, rfl⟩ | hk
      exacts [.inr ⟨rfl, g, hg, rfl⟩, .inl (hsub hk)]
    · exact (hmem e).mpr (.inr (hroom hfit ▸ he))
    · rw [show merged.length = _ from hlen]
      omega
    · rw [mem_mergeStations_learned hs ht hi] at hin
      rw [mem_mergeStations_learned hs ht hj] at hout
      exact (outlasts_iff hi hj).mp (hlast e hin f hf hout)
  · obtain ⟨-, htests⟩ := hh.renewed
    intro refused
    refine ⟨fun hshort => execution_endsAs hn he rfl hq (doCommit_short htests hshort), fun htwo => ?_⟩
    obtain ⟨e1, e0, hargs⟩ := List.length_eq_two.mp htwo
    exact execution_endsAs hn he rfl hq
      (doCommit_bad_keep htests (hargs ▸ argAt_two e1 e0 []) (argIn_of_short (by omega)))

end Sys2Proof.Settled
end

section
/-! SUPPORT. RESTART QUEUES and RESTART FULL, carried out when their response has ended (R167 to R169), and the statements on
them. -/

namespace Sys2Proof.Machine

/-! ## When a restart is due -/

/-- A restart is due exactly when its response has ended (R167); it comes before all else that is due (log 3). -/
theorem due_restart_iff {s : State} {k : RestartKind} : s.due = some (.restart k) ↔
    s.held = false ∧ s.restartDue = true ∧ ∃ n, s.restart = some { kind := k, record := n } := by
  constructor
  · intro h
    unfold State.due at h
    split at h
    · cases h
    · rename_i hheld
      split at h
      · rename_i p hdue hp
        obtain ⟨kind, n⟩ := p
        cases h
        exact ⟨Bool.eq_false_iff.mpr hheld, hdue, n, hp⟩
      · repeat' split at h
        all_goals cases h
  · rintro ⟨hheld, hdue, n, hp⟩
    simp [State.due, hheld, hdue, hp]

/-! ## RESTART QUEUES -/

section
variable {p : Port}

theorem Port.restartQueues_of_down (now : Nat) (h : p.state = .down) : p.restartQueues now = p := if_pos h

theorem Port.restartQueues_of_up (now : Nat) (h : p.state ≠ .down) : p.restartQueues now =
    { p with
      state := .idle, choice := none, lossCount := 0, deferral := none, returnState := none, awaited := none
      replyTimer := .stopped, reply := none, txd := []
      quietSince := if p.state = .sending ∨ p.state = .replying then now else p.quietSince } := if_neg h

end

theorem port_restartQueues (x : Side) (s : State) : (restartQueues s).port x = (s.port x).restartQueues s.now := by
  cases x <;> rfl

theorem counter_clearCountersBut (c d : Counter) (s : State) :
    (clearCountersBut c s).counter d = if d = c then s.counter c else 0#32 := by
  by_cases h : d = c
  · subst h
    simp [State.counter, clearCountersBut]
  · have hne : (c.index : Nat) ≠ d.index := fun e => h (Counter.index_inj d c (Fin.ext e.symm))
    simp [State.counter, clearCountersBut, h, Vector.getElem_set_ne, hne]

/-- RESTART QUEUES keeps one counter, which has counted the custody it discards (R131, R168). -/
theorem counter_restartQueues (c : Counter) (s : State) : (restartQueues s).counter c =
    if c = .custodyDiscarded then saturatingAdd (s.counter .custodyDiscarded) s.forwardCount else 0#32 := by
  have h : (restartQueues s).counter c
      = (clearCountersBut .custodyDiscarded (countBy .custodyDiscarded s.forwardCount s)).counter c := rfl
  rw [h, counter_clearCountersBut, counter_countBy, if_pos rfl]

/-! ## RESTART FULL -/

/-- Nothing runs in a part that has just been reset, so the end of the step changes nothing (R169). -/
theorem finish_resetWith (straps : Straps) (s : State) : finish (resetWith straps s) = resetWith straps s := by
  have hsame : arbitrateBoth (resetWith straps s) = resetWith straps s := arbitrateBoth_same fun x hx => by
    cases x <;> cases hx
  have hclaim : withdrawClaim (resetWith straps s) = resetWith straps s := rfl
  have htest : testSend (resetWith straps s) = resetWith straps s := rfl
  have hdue : (resetWith straps s).due = none := rfl
  rw [finish, hsame, hclaim, hdue]
  simp only [htest, hsame]
  rfl

theorem port_resetWith (straps : Straps) (x : Side) (s : State) :
    (resetWith straps s).port x = Port.afterReset s.now (s.port x).lineOk := by cases x <;> rfl

/-- The STATION straps give OWN, or 1983 with STRAP_INVALID (R2, R188). -/
theorem resetWith_straps (straps : Straps) (s : State) :
    (1 ≤ straps.station.toNat → straps.station.toNat ≤ 1983 →
      (resetWith straps s).own = straps.station.toNat ∧ (resetWith straps s).latched = 0x0001#16)
    ∧ (straps.station.toNat = 0 ∨ 1984 ≤ straps.station.toNat →
      (resetWith straps s).own = 1983 ∧ (resetWith straps s).latched = 0x0003#16) := by
  have hown : (resetWith straps s).own = if strapInvalid straps.station then 1983 else straps.station.toNat := rfl
  have hlatched : (resetWith straps s).latched = if strapInvalid straps.station then 0x0003#16 else 0x0001#16 := rfl
  have hinvalid : strapInvalid straps.station = true ↔ straps.station.toNat = 0 ∨ 1984 ≤ straps.station.toNat := by
    simp [strapInvalid]
  rw [hown, hlatched]
  refine ⟨fun h1 h2 => ?_, fun h => ?_⟩
  · have hvalid := mt hinvalid.mp (by omega)
    exact ⟨if_neg hvalid, if_neg hvalid⟩
  · exact ⟨if_pos (hinvalid.mpr h), if_pos (hinvalid.mpr h)⟩

end Sys2Proof.Machine

namespace Sys2Proof.Settled

open Sys2Proof.Machine

/-- Settles O9: the restart that is due is carried out at all blocks, and the step ends. -/
theorem restartQueues : Obligations.RestartQueues := by
  intro s n hheld hdue hrestart
  have hd : s.due = some (.restart .queues) := due_restart_iff.mpr ⟨hheld, hdue, n, hrestart⟩
  refine ⟨Machine.restartQueues s, _, exec_of_wants hd rfl nofun, ends_finish rfl, fun x hx => ?_, fun x hx => ?_, rfl, rfl,
    rfl, rfl, rfl, rfl, rfl, rfl, rfl, rfl, rfl, rfl, rfl, fun c hc => ?_, ?_, rfl, rfl, rfl, rfl, rfl, rfl, rfl, rfl,
    ⟨rfl, rfl, rfl, rfl, rfl, rfl⟩, ⟨rfl, rfl, rfl, rfl⟩, rfl⟩
  · rw [port_restartQueues, Port.restartQueues_of_down s.now hx]
  · rw [port_restartQueues, Port.restartQueues_of_up s.now hx]
  · rw [counter_restartQueues, if_neg hc]
  · rw [counter_restartQueues, if_pos rfl]

/-- Settles O10: the full restart that is due leaves what a hardware reset with the same straps leaves. -/
theorem restartFull : Obligations.RestartFull := by
  intro s straps n hheld hdue hrestart
  have hd : (withPins straps s).due = some (.restart .full) := due_restart_iff.mpr ⟨hheld, hdue, n, hrestart⟩
  have hrun : exec (.restartFull straps) s = .next (resetWith straps s) := by
    have h : exec (.restartFull straps) (withPins straps s) = .next (finish (resetWith straps (withPins straps s))) :=
      exec_of_wants hd rfl fun _ e => (Instr.restartFull.inj e).symm
    rwa [finish_resetWith] at h
  have hreset : exec (.hardwareReset 0 straps) { s with held := true } = .next (resetWith straps s) := by
    have hnone : settle { s with held := true } = { s with held := true } := settle_of_not_due (not_due_of_held rfl)
    rw [exec, execHardwareReset, hnone]
    rfl
  obtain ⟨hvalid, hinvalid⟩ := resetWith_straps straps s
  exact ⟨_, hrun, hreset, rfl, rfl, rfl, hvalid, hinvalid, rfl, rfl, rfl, fun x => port_resetWith straps x s, rfl, rfl, rfl,
    rfl, rfl, rfl, rfl, rfl, rfl, rfl, rfl, rfl, rfl, fun c => by simp [State.counter, resetWith], rfl, rfl, rfl⟩

end Sys2Proof.Settled
end

section
/-! SUPPORT. The execution of the request at the head, whatever its command (R155, R156): when it is due, what it leaves of its
RESPONSE record, and the statements on it and on a malformed request. -/

namespace Sys2Proof.Machine

/-! ## When the head or a waiting claim is due -/

/-- The head request can execute: R153's conditions, with the cells of R154. -/
def State.runs (s : State) : Prop :=
  ∃ q rest, s.requests = q :: rest ∧ s.restart = none ∧ s.records.length < 64
    ∧ cellsFor (5 + (decideRequest q s).2.results.length) ≤ s.free

section
variable {s : State}

theorem freeDescriptors_pos_iff : 1 ≤ s.freeDescriptors ↔ s.records.length < 64 := by
  simp only [State.freeDescriptors, Config.descriptors]
  omega

theorem length_responsePayload (q : Request) (a : Answer) : (responsePayload q a).length = 5 + a.results.length := by
  simp only [responsePayload, List.length_append, List.length_cons, List.length_nil]

theorem headPasses_iff : s.headPasses = true ↔ s.runs := by
  unfold State.headPasses State.runs
  split
  · simp [*]
  · rename_i q rest hq
    simp [hq, State.canExecute, responseCells, length_responsePayload, freeDescriptors_pos_iff, and_assoc]

theorem responseClaimDue_iff : s.responseClaimDue = true ↔ s.claimsDue = true ∧ s.respClaim = true ∧ s.runs := by
  simp only [State.responseClaimDue, Bool.and_eq_true, headPasses_iff, and_assoc]

theorem eventClaimDue_iff : s.eventClaimDue = true ↔
    s.claimsDue = true ∧ s.eventClaim = true ∧ s.records.length < 64 ∧ 1 ≤ s.free := by
  simp only [State.eventClaimDue, State.eventPasses, Bool.and_eq_true, decide_eq_true_eq, freeDescriptors_pos_iff,
    and_assoc]

/-- With no restart due the claims and the head are tried, in their order (R78, R153; log 3). -/
theorem due_of_no_restart (hheld : s.held = false) (hr : ¬ (s.restartDue = true ∧ s.restart ≠ none)) :
    s.due = if s.responseClaimDue then some .responseClaim else if s.eventClaimDue then some .eventClaim
      else if s.headDue && s.headPasses then some .head else none := by
  rw [State.due, hheld, if_neg Bool.false_ne_true]
  split
  · rename_i p hdue hp
    exact absurd ⟨hdue, by simp [hp]⟩ hr
  · rfl

/-- Whatever else is due, the relay runs and no restart comes before it (log 3, log 19). -/
theorem no_restart_of_due {d : Due} (h : s.due = some d) (hd : ∀ k, d ≠ .restart k) :
    s.held = false ∧ ¬ (s.restartDue = true ∧ s.restart ≠ none) := by
  have hheld : s.held = false := Bool.eq_false_iff.mpr fun hh => by simp [not_due_of_held hh] at h
  refine ⟨hheld, fun ⟨hdue, hne⟩ => ?_⟩
  obtain ⟨⟨k, n⟩, hp⟩ := Option.ne_none_iff_exists'.mp hne
  exact hd k (Option.some.inj (h.symm.trans (due_restart_iff.mpr ⟨hheld, hdue, n, hp⟩)))

theorem not_restart_of_runs (h : s.runs) : ¬ (s.restartDue = true ∧ s.restart ≠ none) := by
  obtain ⟨_, _, _, hrestart, _⟩ := h
  exact fun hr => hr.2 hrestart

theorem due_responseClaim_iff : s.due = some .responseClaim ↔ s.held = false ∧ s.responseClaimDue = true := by
  constructor
  · intro h
    obtain ⟨hheld, hr⟩ := no_restart_of_due h nofun
    rw [due_of_no_restart hheld hr] at h
    split_ifs at h with hresp <;> cases h
    exact ⟨hheld, hresp⟩
  · rintro ⟨hheld, hresp⟩
    obtain ⟨-, -, hruns⟩ := responseClaimDue_iff.mp hresp
    rw [due_of_no_restart hheld (not_restart_of_runs hruns), if_pos hresp]

theorem due_eventClaim_iff : s.due = some .eventClaim ↔
    s.held = false ∧ ¬ (s.restartDue = true ∧ s.restart ≠ none) ∧ ¬ s.responseClaimDue = true
      ∧ s.eventClaimDue = true := by
  constructor
  · intro h
    obtain ⟨hheld, hr⟩ := no_restart_of_due h nofun
    rw [due_of_no_restart hheld hr] at h
    split_ifs at h with hresp hevent <;> cases h
    exact ⟨hheld, hr, hresp, hevent⟩
  · rintro ⟨hheld, hr, hresp, hevent⟩
    rw [due_of_no_restart hheld hr, if_neg hresp, if_pos hevent]

theorem due_head_iff : s.due = some .head ↔
    s.held = false ∧ ¬ s.responseClaimDue = true ∧ ¬ s.eventClaimDue = true ∧ s.headDue = true ∧ s.runs := by
  rw [← headPasses_iff]
  constructor
  · intro h
    obtain ⟨hheld, hr⟩ := no_restart_of_due h nofun
    rw [due_of_no_restart hheld hr] at h
    split_ifs at h with hresp hevent hhead <;> cases h
    exact ⟨hheld, hresp, hevent, Bool.and_eq_true_iff.mp hhead⟩
  · rintro ⟨hheld, hresp, hevent, hhead⟩
    rw [due_of_no_restart hheld (not_restart_of_runs (headPasses_iff.mp hhead.2)), if_neg hresp, if_neg hevent,
      if_pos (Bool.and_eq_true_iff.mpr hhead)]

/-- No descriptor below the lowest free one is free (R106). -/
theorem record?_of_lt_lowestFree {n : Nat} (h : n < s.lowestFree) : s.record? n ≠ none := by
  intro hn
  unfold State.lowestFree at h
  cases hf : (List.range Config.descriptors).find? (fun n => s.records.all (fun r => r.number != n)) with
  | none => simp [hf] at h
  | some m =>
    rw [hf] at h
    obtain ⟨-, -, hbelow⟩ := List.find?_range_eq_some.mp hf
    have htaken := hbelow n h
    simp only [Bool.not_eq_true', List.all_eq_false] at htaken
    obtain ⟨r, hr, hrn⟩ := htaken
    exact record?_none hn r hr (by simpa using hrn)

end

/-! ## The command of a request (R186) -/

/-- The code of a command (R186). -/
def Command.code : Command → Nat
  | .identify => 0x01
  | .readStations => 0x02
  | .readConfig => 0x03
  | .readCounters => 0x04
  | .readCustody => 0x05
  | .readEvents => 0x06
  | .openSession => 0x10
  | .closeSession => 0x11
  | .stageStation => 0x12
  | .unstageStation => 0x13
  | .stageGroups => 0x14
  | .stageParams => 0x15
  | .commit => 0x16
  | .purge => 0x20
  | .restart => 0x21
  | .setEventStation => 0x30
  | .setEventMask => 0x31
  | .clearEvents => 0x32

theorem Command.ofCode_eq_some_iff {c : Byte} {cmd : Command} : Command.ofCode c = some cmd ↔ c.toNat = cmd.code := by
  unfold Command.ofCode
  constructor
  · intro h
    split at h
    all_goals cases h
    all_goals assumption
  · intro h
    rw [h]
    cases cmd <;> rfl

/-- A payload too short for tag and command code has no command and no arguments (R157). -/
theorem Request.command_of_short {q : Request} (h : q.payload.length < 3) : q.command = none ∧ q.args = [] := by
  refine ⟨?_, List.drop_eq_nil_of_le (Nat.le_of_lt h)⟩
  unfold Request.command
  split
  · rename_i hq
    simp only [hq, List.length_cons] at h
    omega
  · rfl

theorem Request.command_of_payload {q : Request} {b0 b1 code : Byte} {args : List Byte}
    (h : q.payload = b0 :: b1 :: code :: args) : q.command = Command.ofCode code ∧ q.args = args := by
  simp only [Request.command, Request.args, h, List.drop_succ_cons, List.drop_zero, and_self]

/-! ## The execution -/

/-- A record held before the end of a step is held after it, and is at most made SENDING (R113). -/
theorem EndsAs.holds {u t : State} {n : Nat} {r : Record} (h : EndsAs u t) (hr : u.record? n = some r) : Holds t n r := by
  by_cases htaken : ∃ x, u.takesRecord x r
  · obtain ⟨x, hx⟩ := htaken
    obtain ⟨-, -, heligible⟩ := candidate_spec hx.2.1
    obtain ⟨-, rfl⟩ := record?_mem hr
    exact ⟨_, (h.takesRecord x r hx).2, rfl, .inr ⟨(eligible_spec heligible).1, rfl⟩⟩
  · exact holds_self (h.records n r hr fun x hx => htaken ⟨x, hx⟩)

section
variable {c : Instr} {s : State} {q : Request} {rest : List Request}

/-- A command whose own step is the execution of the head, or the grant of its claim, executes it, and the step ends (R155). -/
theorem executing_endsAs (hn : s.numbered = true) (he : s.executing q rest)
    (hc : executes c = some q.command ∨ (c = .responseClaimGranted ∧ s.due = some .responseClaim)) :
    ∃ t, exec c s = .next t ∧ EndsAs (executed q rest (decideRequest q s).2 (decideRequest q s).1) t := by
  have hhead : executeHead s = executed q rest (decideRequest q s).2 (decideRequest q s).1 := by
    simp only [executeHead, he.1]
    rfl
  obtain ⟨d, hd, hdue⟩ : ∃ d, s.due = some d ∧ carryOutDue d s = finish (executeHead s) := by
    rcases he.2 with hd | hd
    exacts [⟨_, hd, rfl⟩, ⟨_, hd, rfl⟩]
  have hwants : wants c s d = true :=
    (wants_iff hd c).mpr (hc.imp (fun hk => ⟨q, rest, he, hk⟩) fun hk => .inl hk.symm)
  have hfull : ∀ straps, c = .restartFull straps → straps = s.pins := by
    rintro straps rfl
    rcases hc with hk | ⟨hk, -⟩ <;> cases hk
  obtain ⟨-, hroom⟩ := executing_room he
  obtain ⟨-, -, hnumbered⟩ := (keepsNumbers_decideRequest q s).of
  obtain ⟨-, -, hexecuted, -⟩ := executed_spec (hnumbered.trans hn) hroom q rest (decideRequest q s).2
  rw [← hhead] at hexecuted ⊢
  exact ⟨_, (exec_of_wants hd hwants hfull).trans (congrArg _ hdue), ends_finish hexecuted⟩

/-- The RESPONSE record is held when the step has ended (R156). -/
theorem EndsAs.response_held {a : Answer} {s' t : State} (h : EndsAs (executed q rest a s') t) (hn : s'.numbered = true)
    (hroom : s'.records.length < 64) :
    Holds t s'.lowestFree (newRelayRecord .response q.station q.side (responsePayload q a) s') :=
  h.holds (executed_spec hn hroom q rest a).1

/-! ## The lease of the holder -/

theorem renewLease_of_open {h : Session} (hs : s.session = some h) :
    renewLease q s = if h.holder = q.station then { s with session := some (h.renewed q s.now h.staged) } else s := by
  by_cases hh : h.holder = q.station
  · rw [renewLease_of_holder hs hh, if_pos hh]
  · rw [renewLease_of_other hs hh, if_neg hh]

/-- A request renews at most the lease and the holder side of the session; the holder and what is staged stand (R137). -/
theorem renewLease_eq (q : Request) (s : State) : ∃ session, renewLease q s = { s with session := session }
    ∧ session.map Session.holder = s.session.map Session.holder
    ∧ session.map Session.staged = s.session.map Session.staged := by
  cases hs : s.session with
  | none => exact ⟨none, by rw [renewLease_of_closed hs, ← hs], rfl, rfl⟩
  | some h =>
    rw [renewLease_of_open hs]
    split
    · exact ⟨_, rfl, rfl, rfl⟩
    · exact ⟨some h, by rw [← hs], rfl, rfl⟩

/-! ## A malformed request -/

/-- A request without a command renews the lease and is answered without results, in one cell (R157). -/
theorem malformed_endsAs {o : OutcomeCode} (hn : s.numbered = true) (he : s.executing q rest) (hq : q.command = none)
    (ho : malformedAnswer q = plainAnswer o) :
    ∃ t, exec .malformedRequest s = .next t
      ∧ EndsAs (executed q rest (plainAnswer o) (renewLease q s)) t
      ∧ (∃ r, t.record? s.lowestFree = some r ∧ r.payload = responsePayload q (plainAnswer o))
      ∧ (executed q rest (plainAnswer o) (renewLease q s)).free = s.free - 1 + q.cells := by
  obtain ⟨t, hexec, hends⟩ := executing_endsAs (c := .malformedRequest) hn he (.inl (congrArg some hq.symm))
  have hdecide : decideRequest q s = (renewLease q s, plainAnswer o) := by rw [decideRequest, hq, ← ho]
  obtain ⟨-, hroom⟩ := executing_room he
  obtain ⟨session, hrenew, -⟩ := renewLease_eq q s
  rw [hdecide] at hends hroom
  rw [hrenew] at hends hroom ⊢
  obtain ⟨r, hr, hbare, -⟩ := hends.response_held hn hroom
  obtain ⟨-, -, -, -, -, hfree, -⟩ := executed_spec (s := { s with session := session }) hn hroom q rest (plainAnswer o)
  exact ⟨t, hexec, hends, ⟨r, hr, congrArg Record.payload hbare⟩, hfree⟩

end

end Sys2Proof.Machine

namespace Sys2Proof.Settled

open Sys2Proof.Machine

/-- Settles O43: the head executes when it is due, its RESPONSE record and the rest of what that leaves, and the codes. -/
theorem executionOfTheHead : Obligations.ExecutionOfTheHead := by
  refine ⟨fun c s q rest hn he hc => ?_, fun q rest a s' hn hroom => executed_spec hn hroom q rest a, fun s => ?_,
    fun q => ⟨Request.command_of_short, fun b0 b1 code args hq => ?_⟩, rfl, fun s => ⟨rfl, fun r => newStamp_spec,
      fun hroom => ?_⟩⟩
  · intro s' a
    obtain ⟨-, hroom⟩ := executing_room he
    obtain ⟨-, hnow, hown⟩ := keepsNumbers_decideRequest q s
    obtain ⟨-, hlowest, hnumbered⟩ := (keepsNumbers_decideRequest q s).of
    obtain ⟨t, hexec, hends⟩ := executing_endsAs hn he hc
    obtain ⟨-, -, -, ⟨hrequests, -, hrestart⟩, -⟩ := hends.kept
    refine ⟨hnumbered.trans hn, hroom, hlowest, hnow, hown, ⟨t, hexec, hends, hrequests, fun hdue => ?_, fun hrest hr => ?_,
      q.payload.getD 0 0, q.payload.getD 1 0, q.payload.getD 2 0, fun k => ?_, ?_⟩, fun h => renewLease_of_open,
      renewLease_of_closed⟩
    · rw [hends.flags.1]
      simpa [Option.isSome_iff_ne_none] using ⟨rfl, hdue⟩
    · exact hends.head_tested (by simpa [executed, leaveQueue] using hrest) hrest (hrestart.symm.trans hr)
    · match k with
      | 0 | 1 | 2 => rfl
      | k + 3 => simp
    · have hheld := hends.response_held (hnumbered.trans hn) hroom
      rw [← hlowest, ← hown, ← hnow]
      exact hheld
  · intro runs response event
    have hresponse : s.responseClaimDue = true ↔ response := responseClaimDue_iff
    have hevent : s.eventClaimDue = true ↔ event := eventClaimDue_iff
    rw [← hresponse, ← hevent]
    exact ⟨fun kind => due_restart_iff, due_responseClaim_iff, due_eventClaim_iff, due_head_iff⟩
  · obtain ⟨hcommand, hargs⟩ := Request.command_of_payload hq
    refine ⟨hargs, fun cmd => ?_⟩
    rw [hcommand, Command.ofCode_eq_some_iff]
    cases cmd <;> simp [Command.code]
  · obtain ⟨hlt, hfree⟩ := lowestFree_spec (freeDescriptors_pos_iff.mpr hroom)
    exact ⟨hlt, List.find?_eq_none.mpr fun r hr => by simpa using hfree r hr, fun n => record?_of_lt_lowestFree⟩

/-- Settles O44: the requests without a command, by the bytes that are there. -/
theorem malformedRequest : Obligations.MalformedRequest := by
  intro s q rest hn he gives
  have hshort : ∀ {payload}, q.payload.length < 3 → responsePayload q (plainAnswer .badArgument) = payload →
      gives .badArgument payload := fun hlen hp =>
    hp ▸ malformed_endsAs hn he (Request.command_of_short hlen).1 (if_pos hlen)
  refine ⟨fun hq => hshort (by simp [hq]) (by rw [responsePayload, hq]; rfl), fun b0 hq => ?_, fun b0 b1 hq => ?_,
    fun b0 b1 code extra hq hcode => ?_⟩
  · exact hshort (by simp [hq]) (by rw [responsePayload, hq]; rfl)
  · exact hshort (by simp [hq]) (by rw [responsePayload, hq]; rfl)
  · have hnone : q.command = none := by
      rw [(Request.command_of_payload hq).1]
      refine Option.eq_none_iff_forall_ne_some.mpr fun cmd h => hcode ?_
      rw [Command.ofCode_eq_some_iff.mp h]
      cases cmd <;> decide
    have hlong : malformedAnswer q = plainAnswer .unknownCommand := if_neg (by simp [hq])
    have hp : responsePayload q (plainAnswer .unknownCommand) = [b0, b1, q.seq.setWidth 8, code, 0x0A] := by
      rw [responsePayload, hq]
      rfl
    exact hp ▸ malformed_endsAs hn he hnone hlong

end Sys2Proof.Settled
end

section
/-! SUPPORT. The bytes of results (R185), arguments by their ranges (R183), and the commands that only read: IDENTIFY,
READ_EVENTS, READ_STATIONS and READ_CUSTODY (R160, R161, R164, R181), with the statements on them. -/

namespace Sys2Proof.Machine

/-! ## Numbers and codes in results -/

theorem beBytes_one (n : Nat) : beBytes 1 n = [BitVec.ofNat 8 n] := by simp only [beBytes, Nat.pow_zero, Nat.div_one]

theorem beBytes_high_low (n : Nat) : beBytes 2 n = [BitVec.ofNat 8 (n / 256), BitVec.ofNat 8 n] := by
  simp only [beBytes, Nat.pow_one, Nat.pow_zero, Nat.div_one]

/-- Two bytes are those of the number that they hold. -/
theorem beBytes_of_pair (b1 b0 : Byte) : beBytes 2 (b1.toNat * 256 + b0.toNat) = [b1, b0] := by
  rw [beBytes_high_low]
  congr <;> apply BitVec.eq_of_toNat_eq <;> simp <;> omega

theorem sideCode_eq (x : Side) : sideCode x = if x = .a then 0#8 else 1#8 := by cases x <;> rfl

theorem stationEntryBytes_eq (e : StationEntry) : stationEntryBytes e =
    [BitVec.ofNat 8 (e.station / 256), BitVec.ofNat 8 e.station, if e.side = .a then 0#8 else 1#8,
      if e.origin = .loaded then 0#8 else 1#8, if e.admitPlain then 1#8 else 0#8,
      if e.admitConfirmed then 1#8 else 0#8, if e.manage then 1#8 else 0#8]
    ++ beBytes 2 (e.idle?.getD 0xFFFF) := by
  obtain ⟨station, side, origin, admitPlain, admitConfirmed, manage⟩ := e
  rw [stationEntryBytes, beBytes_high_low station, sideCode_eq]
  cases origin <;> rfl

/-! ## Arguments by their ranges (R183) -/

section
variable {args : List Byte} {off width v m : Nat}

theorem argAt_cons (b : Byte) : argAt (b :: args) (off + 1) width = argAt args off width := by
  have hlen : off + 1 + width ≤ (b :: args).length ↔ off + width ≤ args.length := by
    rw [List.length_cons]
    omega
  simp only [argAt, hlen, List.drop_succ_cons]

theorem argIn_of_le (h : argAt args off width = some v) (hv : v ≤ m) :
    argIn args off width (fun v => v ≤ m) = some v := argIn_of_ok h (decide_eq_true hv)

theorem argIn_of_gt (h : argAt args off width = some v) (hv : m < v) :
    argIn args off width (fun v => v ≤ m) = none := argIn_of_bad h (decide_eq_false (by omega))

end

/-! ## Listings (R161) -/

section
variable {α : Type} (key : α → Nat) (first count : Nat) (table : List α)

/-- The entries of a table from a number on. -/
def foundFrom : List α := table.filter (fun e => decide (first ≤ key e))

theorem listing_eq : listing key first count table =
    ((foundFrom key first table).take count, decide (count < (foundFrom key first table).length)) := rfl

/-- How many entries are listed and whether more follow, as they stand in results (R185). -/
def listingHeader : List Byte :=
  [BitVec.ofNat 8 (min count (foundFrom key first table).length),
    if count < (foundFrom key first table).length then 1#8 else 0#8]

theorem listingHeader_eq : listingHeader key first count table =
    beBytes 1 (listing key first count table).1.length ++ [flagCode (listing key first count table).2] := by
  simp only [listing_eq, beBytes_one, List.length_take, flagCode, decide_eq_true_eq]
  rfl

end

/-! ## READ_STATIONS and READ_CUSTODY by their arguments -/

section
variable {q : Request} {s : State} {first maximum : Nat}

theorem doReadStations_bad_first (h : argIn q.args 0 2 (fun v => v ≤ 2047) = none) :
    doReadStations q s = (s, badArgument 0) := by
  rw [doReadStations, h]

theorem doReadStations_bad_maximum (h : argIn q.args 0 2 (fun v => v ≤ 2047) = some first)
    (hm : argIn q.args 2 1 (fun v => v ≤ 16) = none) : doReadStations q s = (s, badArgument 1) := by
  rw [doReadStations, h]
  simp only [hm]

theorem doReadStations_good (h : argIn q.args 0 2 (fun v => v ≤ 2047) = some first)
    (hm : argIn q.args 2 1 (fun v => v ≤ 16) = some maximum) :
    doReadStations q s = (s, doneWith (beBytes 2 first ++ listingHeader StationEntry.station first maximum s.stations
      ++ ((foundFrom StationEntry.station first s.stations).take maximum).flatMap stationEntryBytes)) := by
  rw [listingHeader_eq, ← List.append_assoc, doReadStations, h]
  simp only [hm, listing_eq]

theorem doReadCustody_bad_first (h : argIn q.args 0 1 (fun v => v ≤ 63) = none) :
    doReadCustody q s = (s, badArgument 0) := by
  rw [doReadCustody, h]

theorem doReadCustody_bad_maximum (h : argIn q.args 0 1 (fun v => v ≤ 63) = some first)
    (hm : argIn q.args 1 1 (fun v => v ≤ 8) = none) : doReadCustody q s = (s, badArgument 1) := by
  rw [doReadCustody, h]
  simp only [hm]

theorem doReadCustody_good (h : argIn q.args 0 1 (fun v => v ≤ 63) = some first)
    (hm : argIn q.args 1 1 (fun v => v ≤ 8) = some maximum) :
    doReadCustody q s = (s, doneWith (beBytes 1 first ++ listingHeader Record.number first maximum s.records
      ++ ((foundFrom Record.number first s.records).take maximum).flatMap recordSummary)) := by
  rw [listingHeader_eq, ← List.append_assoc, doReadCustody, h]
  simp only [hm, listing_eq]

end

end Sys2Proof.Machine

namespace Sys2Proof.Settled

open Sys2Proof.Machine

/-- Settles O45: the results of IDENTIFY and READ_EVENTS as they stand, the bits of the events, and what latching adds. -/
theorem fixedReads : Obligations.FixedReads := by
  refine ⟨fun s q rest hn he => ?_, rfl, fun e s => rfl, fun k n => ⟨rfl, rfl⟩⟩
  obtain ⟨session, hrenew, hholder, -⟩ := renewLease_eq q s
  refine ⟨fun hq => execution_endsAs hn he rfl hq ?_, fun hq => execution_endsAs hn he rfl hq ?_⟩
  · rw [hrenew, carryOut, doIdentify]
    dsimp only
    rw [hholder, beBytes_one s.records.length]
    cases s.session <;> cases s.params.mode <;> rfl
  · rw [hrenew, carryOut, doReadEvents]
    dsimp only
    rcases s.eventStation with _ | ⟨n, _ | _⟩
    all_goals simp [doneWith, eventSetBytes, stationBytes, beBytes, sideCode, flagCode]

/-- Settles O46: READ_STATIONS and READ_CUSTODY by their arguments, and the bytes of what they list. -/
theorem listings : Obligations.Listings := by
  intro s q rest hn he gives
  obtain ⟨session, hrenew, -⟩ := renewLease_eq q s
  refine ⟨fun hq => ?_, fun hq => ?_, fun e => ?_, fun r => ?_⟩
  · have hends : ∀ {o results}, doReadStations q (renewLease q s)
        = (renewLease q s, { outcome := o, results := results }) → gives .readStations o results :=
      fun hd => execution_endsAs hn he rfl hq hd
    have hfirst : ∀ {f1 f0 : Byte} {after}, q.args = f1 :: f0 :: after →
        argAt q.args 0 2 = some (f1.toNat * 256 + f0.toNat) := fun hargs => hargs ▸ argAt_two ..
    refine ⟨fun f1 f0 maximum extra hargs => ?_, fun hshort => ?_, fun f1 f0 hargs => ⟨fun hle => ?_, fun hgt => ?_⟩⟩
    · intro first found
      have hmaximum : argAt q.args 2 1 = some maximum.toNat := by
        rw [hargs, argAt_cons, argAt_cons, argAt_byte]
      refine ⟨fun hgt => ?_, fun hle hgt => ?_, fun hle hm => hends ?_⟩
      · exact hends (doReadStations_bad_first (argIn_of_gt (hfirst hargs) hgt))
      · exact hends (doReadStations_bad_maximum (argIn_of_le (hfirst hargs) hle) (argIn_of_gt hmaximum hgt))
      · have hgood := doReadStations_good (s := renewLease q s) (argIn_of_le (hfirst hargs) hle) (argIn_of_le hmaximum hm)
        rw [beBytes_of_pair, hrenew] at hgood
        rw [hrenew]
        exact hgood
    · exact hends (doReadStations_bad_first (argIn_of_short (by omega)))
    · exact hends (doReadStations_bad_maximum (argIn_of_le (hfirst hargs) hle) (argIn_of_short (by simp [hargs])))
    · exact hends (doReadStations_bad_first (argIn_of_gt (hfirst hargs) hgt))
  · have hends : ∀ {o results}, doReadCustody q (renewLease q s)
        = (renewLease q s, { outcome := o, results := results }) → gives .readCustody o results :=
      fun hd => execution_endsAs hn he rfl hq hd
    have hfirst : ∀ {first : Byte} {after}, q.args = first :: after → argAt q.args 0 1 = some first.toNat :=
      fun hargs => hargs ▸ argAt_byte ..
    refine ⟨fun first maximum extra hargs => ?_, fun hargs => ?_, fun first hargs => ⟨fun hle => ?_, fun hgt => ?_⟩⟩
    · intro found
      have hmaximum : argAt q.args 1 1 = some maximum.toNat := by rw [hargs, argAt_cons, argAt_byte]
      refine ⟨fun hgt => ?_, fun hle hgt => ?_, fun hle hm => hends ?_⟩
      · exact hends (doReadCustody_bad_first (argIn_of_gt (hfirst hargs) hgt))
      · exact hends (doReadCustody_bad_maximum (argIn_of_le (hfirst hargs) hle) (argIn_of_gt hmaximum hgt))
      · have hgood := doReadCustody_good (s := renewLease q s) (argIn_of_le (hfirst hargs) hle) (argIn_of_le hmaximum hm)
        rw [beBytes_one, BitVec.ofNat_toNat, BitVec.setWidth_eq, hrenew] at hgood
        rw [hrenew]
        exact hgood
    · exact hends (doReadCustody_bad_first (argIn_of_short (by simp [hargs])))
    · exact hends (doReadCustody_bad_maximum (argIn_of_le (hfirst hargs) hle) (argIn_of_short (by simp [hargs])))
    · exact hends (doReadCustody_bad_first (argIn_of_gt (hfirst hargs) hgt))
  · rw [stationEntryBytes_eq]
    congr 1
    unfold StationEntry.idle?
    cases e.origin
    · rfl
    · exact beBytes_high_low _
  · simp only [recordSummary, beBytes_high_low, sideCode_eq]
    rcases r.origin with _ | _ | _ | _ <;> rcases r.mark with _ | _ | _ | _ <;> cases r.state <;> rfl

end Sys2Proof.Settled
end

section
/-! SUPPORT. READ_CONFIG and READ_COUNTERS (R162, R163): what each answers by its arguments, the values and the counters in their
results, and the statements on them. -/

namespace Sys2Proof.Machine

/-! ## READ_CONFIG -/

/-- The bytes of a configuration as READ_CONFIG returns it, with what is listed of its entries (R162, R186). -/
theorem configResults_eq (epoch : BitVec 16) (first maximum : Nat) (c : Staged) : configResults epoch first maximum c =
    beBytes 2 epoch.toNat ++ beBytes 8 c.groupsAB.toNat ++ beBytes 8 c.groupsBA.toNat ++ c.params.values.flatMap (beBytes 2)
      ++ (beBytes 2 first ++ listingHeader StagedEntry.station first maximum c.entries)
      ++ ((foundFrom StagedEntry.station first c.entries).take maximum).flatMap stagedEntryBytes := by
  rw [listingHeader_eq, ← List.append_assoc, ← List.append_assoc]
  rfl

theorem stagedEntryBytes_eq (e : StagedEntry) : stagedEntryBytes e =
    [BitVec.ofNat 8 (e.station / 256), BitVec.ofNat 8 e.station, if e.side = .a then 0#8 else 1#8,
      if e.admitPlain then 1#8 else 0#8, if e.admitConfirmed then 1#8 else 0#8, if e.manage then 1#8 else 0#8] := by
  rw [stagedEntryBytes, beBytes_high_low, sideCode_eq]
  rfl

section
variable {q : Request} {s : State} {source first maximum : Nat}

theorem doReadConfig_bad_source (h : argIn q.args 0 1 (fun v => v ≤ 1) = none) :
    doReadConfig q s = (s, badArgument 0) := by
  rw [doReadConfig, h]

theorem doReadConfig_bad_first (h : argIn q.args 0 1 (fun v => v ≤ 1) = some source)
    (hf : argIn q.args 1 2 (fun v => v ≤ 2047) = none) : doReadConfig q s = (s, badArgument 1) := by
  rw [doReadConfig, h]
  simp only [hf]

theorem doReadConfig_bad_maximum (h : argIn q.args 0 1 (fun v => v ≤ 1) = some source)
    (hf : argIn q.args 1 2 (fun v => v ≤ 2047) = some first) (hm : argIn q.args 3 1 (fun v => v ≤ 16) = none) :
    doReadConfig q s = (s, badArgument 2) := by
  rw [doReadConfig, h]
  simp only [hf, hm]

/-- With good arguments the source decides: the active configuration, or the one of the session that is open (R162). -/
theorem doReadConfig_good (h : argIn q.args 0 1 (fun v => v ≤ 1) = some source)
    (hf : argIn q.args 1 2 (fun v => v ≤ 2047) = some first) (hm : argIn q.args 3 1 (fun v => v ≤ 16) = some maximum) :
    (source = 0 → doReadConfig q s = (s, doneWith (configResults s.epoch first maximum s.activeCopy)))
      ∧ (source ≠ 0 → s.session.map Session.staged = none → doReadConfig q s = (s, plainAnswer .noSession))
      ∧ ∀ staged, source ≠ 0 → s.session.map Session.staged = some staged →
        doReadConfig q s = (s, doneWith (configResults s.epoch first maximum staged)) := by
  rw [doReadConfig, h]
  simp only [hf, hm]
  refine ⟨fun h0 => if_pos h0, fun h1 hs => ?_, fun staged h1 hs => ?_⟩
  · rw [if_neg h1, Option.map_eq_none_iff.mp hs]
  · obtain ⟨c, hc, rfl⟩ := Option.map_eq_some_iff.mp hs
    rw [if_neg h1, hc]

end

/-! ## READ_COUNTERS -/

theorem counter_eq_getD (s : State) (c : Counter) : s.counter c = s.counters.toList.getD c.index.val 0#32 := by
  simp [State.counter, List.getD_eq_getElem?_getD]

theorem counter_clearCounters (first n : Nat) (s : State) (c : Counter) : (clearCounters first n s).counter c =
    if first ≤ c.index.val ∧ c.index.val < first + n then 0#32 else s.counter c := by
  simp only [State.counter, clearCounters, Fin.getElem_fin, Vector.getElem_mapIdx]

/-- Counting stops at the largest value that 32 bits hold (R171). -/
theorem toNat_saturatingAdd (v : BitVec 32) (n : Nat) : (saturatingAdd v n).toNat = min (v.toNat + n) 4294967295 := by
  unfold saturatingAdd
  split
  · rename_i h
    rw [BitVec.toNat_ofNat, Nat.mod_eq_of_lt (by omega), Nat.min_eq_left h]
  · rename_i h
    rw [Nat.min_eq_right (by omega)]
    rfl

/-- The counters named are read one after another from the bank (R163). -/
theorem counterBytes_eq {first n : Nat} (h : first + n ≤ 26) (bank : CounterBank) : counterBytes first n bank =
    (List.range n).flatMap (fun i => beBytes 4 (bank.toList.getD (first + i) 0).toNat) := by
  have hlist : (bank.toList.drop first).take n = (List.range n).map (fun i => bank.toList.getD (first + i) 0) := by
    refine List.ext_getElem (by simp; omega) fun i h1 h2 => ?_
    have hi : first + i < bank.toList.length := by
      simp at h2 ⊢
      omega
    rw [List.getElem_take, List.getElem_drop, List.getElem_map, List.getElem_range, List.getD_eq_getElem _ _ hi]
  rw [counterBytes, hlist, List.flatMap_map]

section
variable {q : Request} {s : State} {first n clear : Nat}

/-- Whoever may not manage may read the counters but not clear them (R158, R163). -/
def State.mayRead (s : State) (q : Request) : Prop := argAt q.args 2 1 ≠ some 1 ∨ s.permits q.station = true

theorem not_refused_of_mayRead (h : s.mayRead q) : ¬ (argAt q.args 2 1 = some 1 ∧ s.permits q.station = false) := by
  rintro ⟨hclear, hp⟩
  rcases h with h | h
  · exact h hclear
  · exact Bool.false_ne_true (hp.symm.trans h)

theorem doReadCounters_not_permitted (hclear : argAt q.args 2 1 = some 1) (hp : s.permits q.station = false) :
    doReadCounters q s = (s, plainAnswer .notManager) := if_pos ⟨hclear, hp⟩

theorem doReadCounters_bad_first (hread : s.mayRead q) (h : argIn q.args 0 1 (fun v => v ≤ 25) = none) :
    doReadCounters q s = (s, badArgument 0) := by
  rw [doReadCounters, if_neg (not_refused_of_mayRead hread), h]

theorem doReadCounters_bad_count (hread : s.mayRead q) (h : argIn q.args 0 1 (fun v => v ≤ 25) = some first)
    (hn : argIn q.args 1 1 (fun n => 1 ≤ n && first + n ≤ 26) = none) : doReadCounters q s = (s, badArgument 1) := by
  rw [doReadCounters, if_neg (not_refused_of_mayRead hread), h]
  simp only [hn]

theorem doReadCounters_bad_clear (hread : s.mayRead q) (h : argIn q.args 0 1 (fun v => v ≤ 25) = some first)
    (hn : argIn q.args 1 1 (fun n => 1 ≤ n && first + n ≤ 26) = some n)
    (hc : argIn q.args 2 1 (fun v => v ≤ 1) = none) : doReadCounters q s = (s, badArgument 2) := by
  rw [doReadCounters, if_neg (not_refused_of_mayRead hread), h]
  simp only [hn, hc]

theorem doReadCounters_good (hread : s.mayRead q) (h : argIn q.args 0 1 (fun v => v ≤ 25) = some first)
    (hn : argIn q.args 1 1 (fun n => 1 ≤ n && first + n ≤ 26) = some n)
    (hc : argIn q.args 2 1 (fun v => v ≤ 1) = some clear) :
    doReadCounters q s = (if clear = 1 then clearCounters first n s else s,
      doneWith (beBytes 1 first ++ beBytes 1 n ++ counterBytes first n s.counters)) := by
  rw [doReadCounters, if_neg (not_refused_of_mayRead hread), h]
  simp only [hn, hc]

end

end Sys2Proof.Machine

namespace Sys2Proof.Settled

open Sys2Proof.Machine

/-- Settles O47: READ_CONFIG by its arguments and the configuration it reads, the order of its values and the bytes of an
entry. -/
theorem readConfig : Obligations.ReadConfig := by
  refine ⟨fun s q rest source f1 f0 maximum extra hn he hq hargs => ?_, fun s q rest hn he hq => ?_, fun p => ?_,
    stagedEntryBytes_eq⟩
  · intro first gives listed
    obtain ⟨session, hrenew, -, hstaged⟩ := renewLease_eq q s
    have hends : ∀ {o results}, doReadConfig q (renewLease q s)
        = (renewLease q s, { outcome := o, results := results }) → gives o results :=
      fun hd => execution_endsAs hn he rfl hq hd
    have hsource : argAt q.args 0 1 = some source.toNat := hargs ▸ argAt_byte ..
    have hfirst : argAt q.args 1 2 = some first := by rw [hargs, argAt_cons, argAt_two]
    have hmaximum : argAt q.args 3 1 = some maximum.toNat := by
      rw [hargs, argAt_cons, argAt_cons, argAt_cons, argAt_byte]
    refine ⟨fun hgt => ?_, fun hs hgt => ?_, fun hs hf hgt => ?_, fun hf hm => ?_⟩
    · exact hends (doReadConfig_bad_source (argIn_of_gt hsource hgt))
    · exact hends (doReadConfig_bad_first (argIn_of_le hsource hs) (argIn_of_gt hfirst hgt))
    · exact hends (doReadConfig_bad_maximum (argIn_of_le hsource hs) (argIn_of_le hfirst hf) (argIn_of_gt hmaximum hgt))
    · have hresults : ∀ c : Staged, configResults s.epoch first maximum.toNat c
          = listed c.groupsAB c.groupsBA c.params c.entries := fun c => by
        rw [configResults_eq, beBytes_of_pair]
        rfl
      have hgood : source.toNat ≤ 1 → _ := fun hs => doReadConfig_good (s := renewLease q s) (argIn_of_le hsource hs)
        (argIn_of_le hfirst hf) (argIn_of_le hmaximum hm)
      have hepoch : (renewLease q s).epoch = s.epoch := by rw [hrenew]
      have hsession : (renewLease q s).session.map Session.staged = s.session.map Session.staged := by
        rw [hrenew]
        exact hstaged
      have hcopy : (renewLease q s).activeCopy = s.activeCopy := by
        rw [hrenew]
        rfl
      rw [hepoch, hsession, hcopy] at hgood
      simp only [hresults] at hgood
      refine ⟨?_, ?_, ?_⟩
      · rintro rfl
        exact hends ((hgood (by decide)).1 rfl)
      · rintro rfl hs
        exact hends ((hgood (by decide)).2.1 (by decide) (by rw [hs]; rfl))
      · rintro h rfl hs
        exact hends ((hgood (by decide)).2.2 h.staged (by decide) (by rw [hs]; rfl))
  · intro refused
    have hends : ∀ {i}, doReadConfig q (renewLease q s) = (renewLease q s, badArgument i) → refused (BitVec.ofNat 8 i) :=
      fun hd => execution_endsAs hn he rfl hq hd
    have hsource : ∀ {source : Byte} {more}, q.args = source :: more → argAt q.args 0 1 = some source.toNat :=
      fun hargs => hargs ▸ argAt_byte ..
    refine ⟨fun hargs => ?_, fun source more hargs hlen hgt => ?_, fun source more hargs hlen hle => ?_,
      fun source f1 f0 hargs hle => ?_⟩
    · exact hends (doReadConfig_bad_source (argIn_of_short (by simp [hargs])))
    · exact hends (doReadConfig_bad_source (argIn_of_gt (hsource hargs) hgt))
    · exact hends (doReadConfig_bad_first (argIn_of_le (hsource hargs) hle)
        (argIn_of_short (by rw [hargs, List.length_cons]; omega)))
    · have hfirst : argAt q.args 1 2 = some (f1.toNat * 256 + f0.toNat) := by rw [hargs, argAt_cons, argAt_two]
      refine ⟨fun hgt => ?_, fun hf => ?_⟩
      · exact hends (doReadConfig_bad_first (argIn_of_le (hsource hargs) hle) (argIn_of_gt hfirst hgt))
      · exact hends (doReadConfig_bad_maximum (argIn_of_le (hsource hargs) hle) (argIn_of_le hfirst hf)
          (argIn_of_short (by simp [hargs])))
  · obtain ⟨mode, unknownPolicy, broadcastAB, broadcastBA, sresetPass, learn, learnAdmit⟩ := p
    simp only [Params.values, boolCode, List.cons.injEq, true_and, and_true]
    refine ⟨?_, ?_, ?_, ?_, ?_⟩
    · cases mode <;> rfl
    · cases unknownPolicy <;> rfl
    · cases broadcastAB <;> rfl
    · cases broadcastBA <;> rfl
    · cases learnAdmit <;> rfl

/-- Settles O48: READ_COUNTERS by the requester and its arguments, the indices of the counters, and what counting does. -/
theorem readCounters : Obligations.ReadCounters := by
  refine ⟨fun s q rest first n clear extra hn he hq hargs => ?_, fun s q rest hn he hq => ?_, rfl, counter_eq_getD,
    fun c n s => ⟨rfl, fun d => counter_countBy c d n s⟩, fun c s => rfl, toNat_saturatingAdd⟩
  · intro results gives open_
    obtain ⟨session, hrenew, -⟩ := renewLease_eq q s
    have hends : ∀ {o results s'}, doReadCounters q (renewLease q s) = (s', { outcome := o, results := results }) →
        gives o results s' := fun hd => execution_endsAs hn he rfl hq hd
    have hfirst : argAt q.args 0 1 = some first.toNat := hargs ▸ argAt_byte ..
    have hcount : argAt q.args 1 1 = some n.toNat := by rw [hargs, argAt_cons, argAt_byte]
    have hclear : argAt q.args 2 1 = some clear.toNat := by rw [hargs, argAt_cons, argAt_cons, argAt_byte]
    have hread : open_ → (renewLease q s).mayRead q := by
      refine Or.imp (fun hne hone => hne ?_) fun hp => (permits_renewLease ..).trans hp
      exact BitVec.eq_of_toNat_eq (Option.some.inj (hclear.symm.trans hone))
    refine ⟨fun hone hp => ?_, fun ho hgt => ?_, fun ho hle hbad => ?_, fun h1 h26 => ?_⟩
    · exact hends (doReadCounters_not_permitted (by rw [hclear, hone]; rfl) ((permits_renewLease ..).trans hp))
    · exact hends (doReadCounters_bad_first (hread ho) (argIn_of_gt hfirst hgt))
    · refine hends (doReadCounters_bad_count (hread ho) (argIn_of_le hfirst hle) (argIn_of_bad hcount ?_))
      simp only [Bool.and_eq_false_iff, decide_eq_false_iff_not]
      omega
    · have hgoodFirst := argIn_of_le (m := 25) hfirst (by omega)
      have hgoodCount : argIn q.args 1 1 (fun n => 1 ≤ n && first.toNat + n ≤ 26) = some n.toNat :=
        argIn_of_ok hcount (by simp [h1, h26])
      have hgood : clear.toNat ≤ 1 → open_ → doReadCounters q (renewLease q s) =
          (if clear.toNat = 1 then clearCounters first.toNat n.toNat (renewLease q s) else renewLease q s,
            doneWith results) := fun hle ho => by
        have h := doReadCounters_good (hread ho) hgoodFirst hgoodCount (argIn_of_le hclear hle)
        have hbank : (renewLease q s).counters = s.counters := by rw [hrenew]
        simp only [hbank, counterBytes_eq h26, beBytes_one, BitVec.ofNat_toNat, BitVec.setWidth_eq] at h
        exact h
      refine ⟨fun hgt => ?_, ?_, ?_⟩
      · have ho : open_ := .inl fun hone => by simp [hone] at hgt
        exact hends (doReadCounters_bad_clear (hread ho) hgoodFirst hgoodCount (argIn_of_gt hclear hgt))
      · rintro rfl
        exact hends (hgood (by decide) (.inl (by decide)))
      · rintro rfl hp
        refine ⟨hends (hgood (by decide) (.inr hp)), fun c => ?_⟩
        rw [counter_clearCounters, hrenew]
        rfl
  · intro refused
    have hends : ∀ {i}, doReadCounters q (renewLease q s) = (renewLease q s, badArgument i) →
        refused (BitVec.ofNat 8 i) := fun hd => execution_endsAs hn he rfl hq hd
    have hread : q.args.length < 3 → (renewLease q s).mayRead q := fun hlen =>
      .inl (by rw [argAt_of_short hlen]; nofun)
    have hfirst : ∀ {first : Byte} {more}, q.args = first :: more → argAt q.args 0 1 = some first.toNat :=
      fun hargs => hargs ▸ argAt_byte ..
    refine ⟨fun hargs => ?_, fun first more hargs hlen hgt => ?_, fun first hargs hle => ?_, fun first n hargs hle => ?_⟩
    · exact hends (doReadCounters_bad_first (hread (by simp [hargs])) (argIn_of_short (by simp [hargs])))
    · exact hends (doReadCounters_bad_first (hread (by rw [hargs, List.length_cons]; omega))
        (argIn_of_gt (hfirst hargs) hgt))
    · exact hends (doReadCounters_bad_count (hread (by simp [hargs])) (argIn_of_le (hfirst hargs) hle)
        (argIn_of_short (by simp [hargs])))
    · have hcount : argAt q.args 1 1 = some n.toNat := by rw [hargs, argAt_cons, argAt_byte]
      have hopen := hread (by simp [hargs])
      refine ⟨fun hbad => ?_, fun h1 h26 => ?_⟩
      · refine hends (doReadCounters_bad_count hopen (argIn_of_le (hfirst hargs) hle) (argIn_of_bad hcount ?_))
        simp only [Bool.and_eq_false_iff, decide_eq_false_iff_not]
        omega
      · exact hends (doReadCounters_bad_clear hopen (argIn_of_le (hfirst hargs) hle)
          (argIn_of_ok hcount (by simp [h1, h26])) (argIn_of_short (by simp [hargs])))

end Sys2Proof.Settled
end

section
/-! SUPPORT. PURGE and RESTART (R165, R128, R166): what a purge leaves of its records when the arbiters have run, both commands by
their arguments, and the statement on them. -/

namespace Sys2Proof.Machine

/-! ## The records after a purge -/

/-- A record that does not wait for the line is held as it is: only a QUEUED one may become SENDING (R113). -/
theorem Holds.record?_eq {t : State} {n : Nat} {r : Record} (h : Holds t n r) (hr : r.state ≠ .queued) :
    t.record? n = some r := by
  obtain ⟨q, hq, hbare, hstate | ⟨hqueued, -⟩⟩ := h
  · rw [hq, ← hbare, ← hstate]
  · exact absurd hqueued hr

/-- A marked record is on the line or has its reply awaited (R121). -/
theorem not_queued_of_withdrawal_marked {s : State} {r : Record} (h : s.withdrawal r = .marked) : r.state ≠ .queued := by
  intro hq
  cases hm : r.mark with
  | none => simp [withdrawal_of_off_line hm (.inl hq)] at h
  | some m => simp [withdrawal_of_marked hm] at h

theorem noticePayload_purged (r : Record) : noticePayload r .purged =
    [BitVec.ofNat 8 (r.destination / 256), BitVec.ofNat 8 r.destination, r.seq.setWidth 8, r.kind.code.setWidth 8,
      EndReason.purged.code, BitVec.ofNat 8 r.attempts, BitVec.ofNat 8 r.busyCount] := by
  rw [noticePayload, beBytes_high_low]
  rfl

theorem purgeMatches_iff (destination : Option Nat) (side : Option Side) (r : Record) :
    purgeMatches destination side r = true ↔
      r.origin = .forward ∧ (∀ d, destination = some d → r.destination = d) ∧ ∀ x, side = some x → r.outSide = x := by
  cases destination <;> cases side <;> simp [purgeMatches, and_assoc]

section
variable {s : State} (destination : Option Nat) (side : Option Side) (hs : s.numbered = true)
include hs

/-- Every matching record has become its NOTICE or has its mark when the arbiters have run, and every other record is held
(R128, R121, R124). -/
theorem purgeRecords_records :
    (∀ n r, s.record? n = some r → purgeMatches destination side r = true → s.withdrawal r = .atOnce →
      ∃ p, (purgeRecords destination side s).record? n = some p ∧ p.origin = .relay .notice ∧ p.destination = r.source
        ∧ p.outSide = r.inSide ∧ p.payload = noticePayload r .purged)
    ∧ (∀ n r, s.record? n = some r → purgeMatches destination side r = true → s.withdrawal r = .marked →
      (purgeRecords destination side s).record? n = some { r with mark := some .purged })
    ∧ ∀ n r, s.record? n = some r → purgeMatches destination side r = false ∨ s.withdrawal r = .kept →
      Holds (purgeRecords destination side s) n r := by
  obtain ⟨v, hpurge, hw⟩ := purgeRecords_spec destination side hs
  have hv : v.numbered = true := by
    obtain ⟨-, -, hpurged⟩ := (keepsNumbers_purgeRecords destination side s).of
    obtain ⟨-, -, harbitrated⟩ := (keepsNumbers_arbitrateBoth v).of
    rw [← harbitrated, ← hpurge, hpurged, hs]
  have hheld : ∀ {n r}, v.record? n = some r → Holds (purgeRecords destination side s) n r := fun h =>
    hpurge ▸ holds_arbitrate .b (numbered_arbitrate .a hv) (holds_arbitrate .a hv (holds_self h))
  refine ⟨fun n r hr hmatch hw1 => ?_, fun n r hr hmatch hw1 => ?_, fun n r hr hkept => hheld (hw.others n r hr hkept)⟩
  · obtain ⟨q, hq, ⟨-, horigin, -, -, hdestination, -, hout, -, -, -, -, -, -, -, -, hpayload⟩, -⟩ :=
      hw.atOnce n r hr hmatch hw1
    obtain ⟨p, hp, hbare, -⟩ := hheld hq
    refine ⟨p, hp, (congrArg Record.origin hbare).trans horigin, (congrArg Record.destination hbare).trans hdestination,
      (congrArg Record.outSide hbare).trans hout, (congrArg Record.payload hbare).trans ?_⟩
    exact hpayload.trans (noticePayload_purged r).symm
  · have hwaits : r.state ≠ .queued := not_queued_of_withdrawal_marked hw1
    exact (hheld (hw.marked n r hr hmatch hw1)).record?_eq hwaits

end

/-! ## The records after the lease is renewed -/

section
variable (q : Request) (s : State)

theorem numbered_renewLease : (renewLease q s).numbered = s.numbered := by
  obtain ⟨_, h, -⟩ := renewLease_eq q s
  rw [h]
  rfl

theorem record?_renewLease (n : Nat) : (renewLease q s).record? n = s.record? n := by
  obtain ⟨_, h, -⟩ := renewLease_eq q s
  rw [h]
  rfl

theorem withdrawal_renewLease (r : Record) : (renewLease q s).withdrawal r = s.withdrawal r := by
  obtain ⟨_, h, -⟩ := renewLease_eq q s
  rw [h]
  rfl

theorem purgeCount_renewLease (w : Withdrawal) (destination : Option Nat) (side : Option Side) :
    purgeCount w destination side (renewLease q s) = purgeCount w destination side s := by
  obtain ⟨_, h, -⟩ := renewLease_eq q s
  rw [h]
  rfl

end

/-! ## PURGE by its arguments -/

section
variable {q : Request} {s : State} {d1 d0 : Byte} {sides : List Byte}

theorem purgeSide_of_absent (ha : q.args = [d1, d0]) : purgeSide q.args = some none := by rw [ha]; rfl

theorem purgeSide_of_code {x : Side} {extra : List Byte} (ha : q.args = d1 :: d0 :: sideCode x :: extra) :
    purgeSide q.args = some (some x) := by
  rw [ha]
  exact congrArg (Option.map some) (sideOfCode_sideCode x)

theorem purgeSide_of_bad {c : Byte} {extra : List Byte} (ha : q.args = d1 :: d0 :: c :: extra) (hc : 1 < c.toNat) :
    purgeSide q.args = none := by
  rw [ha]
  exact congrArg (Option.map some) (sideOfCode_of_bad hc)

/-- A destination of a PURGE: an individual station, or the code of every destination (R165, R185). -/
theorem purgeDestination_ok_iff (d : Nat) :
    (isIndividual d || d == purgeAll) = true ↔ (1 ≤ d ∧ d ≤ 1983) ∨ d = 65535 := by
  simp only [isIndividual, purgeAll, Bool.or_eq_true, Bool.and_eq_true, decide_eq_true_eq, beq_iff_eq]

variable (hp : s.permits q.station = true)
include hp

theorem doPurge_bad_destination (h : argIn q.args 0 2 (fun v => isIndividual v || v == purgeAll) = none) :
    doPurge q s = (s, badArgument 0) := by
  rw [doPurge, if_neg (by simp [hp]), h]

theorem doPurge_bad_side {d : Nat} (h : argIn q.args 0 2 (fun v => isIndividual v || v == purgeAll) = some d)
    (hside : purgeSide q.args = none) : doPurge q s = (s, badArgument 1) := by
  rw [doPurge, if_neg (by simp [hp]), h]
  simp only [hside]

theorem doPurge_good {d : Nat} {destination : Option Nat} {side : Option Side}
    (h : argIn q.args 0 2 (fun v => isIndividual v || v == purgeAll) = some d)
    (hd : (if d = purgeAll then none else some d) = destination) (hside : purgeSide q.args = some side) :
    doPurge q s = (purgeRecords destination side s,
      doneWith [BitVec.ofNat 8 (purgeCount .atOnce destination side s),
        BitVec.ofNat 8 (purgeCount .marked destination side s)]) := by
  rw [doPurge, if_neg (by simp [hp]), h]
  simp only [hside, hd, beBytes_one]
  rfl

/-! ## RESTART by its argument -/

theorem doRestart_bad (h : argIn q.args 0 1 (fun v => v ≤ 1) = none) : doRestart q s = (s, badArgument 0) := by
  rw [doRestart, if_neg (by simp [hp]), h]

theorem doRestart_good {k : Nat} (h : argIn q.args 0 1 (fun v => v ≤ 1) = some k) :
    doRestart q s =
      ({ s with restart := some { kind := if k = 0 then .queues else .full, record := s.lowestFree } }, doneWith []) := by
  rw [doRestart, if_neg (by simp [hp]), h]

end

end Sys2Proof.Machine

namespace Sys2Proof.Settled

open Sys2Proof.Machine

/-- Settles O55: PURGE by its arguments and what it leaves of each record, and RESTART by its kind. -/
theorem purgeAndRestart : Obligations.PurgeAndRestart := by
  intro s q rest hn he hp s1 gives
  obtain ⟨session, hrenew, -⟩ := renewLease_eq q s
  have hp1 : (renewLease q s).permits q.station = true := (permits_renewLease ..).trans hp
  refine ⟨fun hq => ?_, fun hq => ?_⟩
  · have hends : ∀ {o results s'}, doPurge q (renewLease q s) = (s', { outcome := o, results := results }) →
        gives .purge o results s' := fun hd => execution_endsAs hn he rfl hq hd
    have hdestination : ∀ {d1 d0 : Byte} {sides}, q.args = d1 :: d0 :: sides →
        argAt q.args 0 2 = some (d1.toNat * 256 + d0.toNat) := fun hargs => hargs ▸ argAt_two ..
    refine ⟨fun d1 d0 sides destination side hargs hd hside => ?_, fun hshort => ?_, fun r => ⟨fun m => withdrawal_of_marked,
      fun hm hr => ?_, fun hm hr => withdrawal_of_on_line hm hr.symm⟩, fun d1 d0 sides hargs hbad => ?_,
      fun d1 d0 side extra hargs hside hd => ?_⟩
    · intro s'
      have hread : purgeSide q.args = some side := by
        rcases hside with ⟨rfl, rfl⟩ | ⟨x, extra, rfl, rfl⟩
        exacts [purgeSide_of_absent hargs, purgeSide_of_code hargs]
      obtain ⟨d, hin, hchosen⟩ : ∃ d, argIn q.args 0 2 (fun v => isIndividual v || v == purgeAll) = some d
          ∧ (if d = purgeAll then none else some d) = destination := by
        rcases hd with ⟨rfl, rfl, rfl⟩ | ⟨rfl, h1, h2⟩
        · exact ⟨_, argIn_of_ok (hdestination hargs) (by decide), by decide⟩
        · refine ⟨_, argIn_of_ok (hdestination hargs) ((purgeDestination_ok_iff _).mpr (.inl ⟨h1, h2⟩)), if_neg ?_⟩
          rw [purgeAll]
          omega
      have hdone := hends (doPurge_good hp1 hin hchosen hread)
      rw [purgeCount_renewLease, purgeCount_renewLease] at hdone
      have hn1 : s1.numbered = true := (numbered_renewLease q s).trans hn
      have hrecord : ∀ {r}, r ∈ s.records → s1.record? r.number = some r := fun hr =>
        (record?_renewLease ..).trans (record?_of_mem hn hr)
      have hwithdrawal : ∀ r, s1.withdrawal r = s.withdrawal r := withdrawal_renewLease q s
      obtain ⟨hatOnce, hmarked, hother⟩ := purgeRecords_records destination side hn1
      simp only [hwithdrawal] at hatOnce hmarked hother
      exact ⟨hdone, fun w => rfl, fun r hr => hatOnce _ r (hrecord hr), fun r hr => hmarked _ r (hrecord hr),
        fun n r hr => hother n r ((record?_renewLease ..).trans hr), purgeRecords_spec destination side hn1,
        purgeMatches_iff destination side⟩
    · exact hends (doPurge_bad_destination hp1 (argIn_of_short (by omega)))
    · rcases hr with hr | hr | ⟨hr, hport⟩
      exacts [withdrawal_of_off_line hm (.inl hr), withdrawal_of_off_line hm (.inr hr), withdrawal_of_chosen hm hr hport]
    · refine hends (doPurge_bad_destination hp1 (argIn_of_bad (hdestination hargs) ?_))
      rw [Bool.eq_false_iff, Ne, purgeDestination_ok_iff]
      omega
    · exact hends (doPurge_bad_side hp1 (argIn_of_ok (hdestination hargs) ((purgeDestination_ok_iff _).mpr hd))
        (purgeSide_of_bad hargs hside))
  · have hends : ∀ {o results s'}, doRestart q (renewLease q s) = (s', { outcome := o, results := results }) →
        gives .restart o results s' := fun hd => execution_endsAs hn he rfl hq hd
    have hkind : ∀ {k : Byte} {extra}, q.args = k :: extra → argAt q.args 0 1 = some k.toNat :=
      fun hargs => hargs ▸ argAt_byte ..
    have hlowest : (renewLease q s).lowestFree = s.lowestFree := by
      rw [hrenew]
      rfl
    refine ⟨fun extra hargs => ?_, fun extra hargs => ?_, fun k extra hargs hgt => ?_, fun hargs => ?_⟩
    · exact hends (hlowest ▸ doRestart_good hp1 (argIn_of_le (hkind hargs) (by decide)))
    · exact hends (hlowest ▸ doRestart_good hp1 (argIn_of_le (hkind hargs) (by decide)))
    · exact hends (doRestart_bad hp1 (argIn_of_gt (hkind hargs) hgt))
    · exact hends (doRestart_bad hp1 (argIn_of_short (by simp [hargs])))

end Sys2Proof.Settled
end

section
/-! SUPPORT. The laws of the event sets (R173): what can happen to the latched, the reported and the sent set and to the
EVENT record, and the steps of the lines and timers through which it happens. -/

namespace Sys2Proof.Machine

/-! ## The laws -/

/-- Every event of the one set is in the other (R173). -/
def Among (a b : EventSet) : Prop := ∀ i, a.getLsbD i = true → b.getLsbD i = true

/-- The test of the model's law, as set inclusion. -/
theorem among_iff (a b : EventSet) : a &&& ~~~ b = 0#16 ↔ Among a b := by
  constructor
  · intro h i ha
    have hi : i < 16 := BitVec.lt_of_getLsbD ha
    simpa [ha, hi] using congrArg (fun v : EventSet => v.getLsbD i) h
  · intro h
    refine BitVec.eq_of_getLsbD_eq fun i hi => ?_
    cases ha : a.getLsbD i
    · simp [ha]
    · simp [h i ha]

namespace Among

variable {a b c : EventSet}

theorem refl (a : EventSet) : Among a a := fun _ => id
theorem trans (h : Among a b) (k : Among b c) : Among a c := fun i hi => k i (h i hi)
theorem zero (a : EventSet) : Among 0#16 a := fun i hi => by simp at hi
theorem or_left (a b : EventSet) : Among a (a ||| b) := fun i hi => by simp [hi]
theorem and_left (a b : EventSet) : Among (a &&& b) a := fun i hi => by simp_all
theorem and_right (h : Among a b) (c : EventSet) : Among (a &&& c) (b &&& c) := fun i hi => by
  simp only [BitVec.getLsbD_and, Bool.and_eq_true] at hi ⊢
  exact ⟨h i hi.1, hi.2⟩

end Among

/-- The reported and the sent set hold latched events only (R173). -/
structure EventLaws (s : State) : Prop where
  reported : Among s.reported s.latched
  sent : ∀ f, s.eventRecord = some f → Among f.sent s.latched

theorem eventSetsOk_iff (s : State) : s.eventSetsOk = true ↔ EventLaws s := by
  simp only [State.eventSetsOk, Bool.and_eq_true, beq_iff_eq, among_iff]
  refine ⟨fun ⟨hr, hs⟩ => ⟨hr, fun f hf => ?_⟩, fun h => ⟨h.reported, ?_⟩⟩
  · simpa only [hf, beq_iff_eq, among_iff] using hs
  · cases hf : s.eventRecord with
    | none => rfl
    | some f => simpa only [beq_iff_eq, among_iff] using h.sent f hf

/-- All that the laws of the event sets speak of. -/
def State.eventSets (s : State) : EventSet × EventSet × Option EventFlight := (s.latched, s.reported, s.eventRecord)

namespace EventLaws

variable {s t : State}

/-! ## What can happen to the event sets -/

/-- Events are latched, the reported set stays or empties, and the EVENT record stays or ends. -/
theorem onward (h : EventLaws s) (hl : Among s.latched t.latched) (hr : t.reported = s.reported ∨ t.reported = 0#16)
    (he : t.eventRecord = s.eventRecord ∨ t.eventRecord = none) : EventLaws t where
  reported := by
    rcases hr with hr | hr <;> rw [hr]
    exacts [h.reported.trans hl, .zero _]
  sent f hf := by
    rcases he with he | he <;> rw [he] at hf
    · exact (h.sent f hf).trans hl
    · cases hf

/-- A change of other blocks keeps the laws of the event sets. -/
theorem of_eventSets (h : EventLaws s) (e : t.eventSets = s.eventSets) : EventLaws t := by
  simp only [State.eventSets, Prod.mk.injEq] at e
  obtain ⟨hl, hr, he⟩ := e
  exact h.onward (hl ▸ .refl _) (.inl hr) (.inl he)

/-- With the reported set empty and no EVENT record there is nothing to keep. -/
theorem cleared (hr : s.reported = 0#16) (he : s.eventRecord = none) : EventLaws s where
  reported := hr ▸ .zero _
  sent f hf := by
    rw [he] at hf
    cases hf

theorem elapse (h : EventLaws s) (dt : Nat) : EventLaws (elapse dt s) := h.of_eventSets rfl
theorem reach (h : EventLaws s) (m : Nat) : EventLaws (reach m s) := h.of_eventSets rfl
theorem count (h : EventLaws s) (c : Counter) : EventLaws (count c s) := h.of_eventSets rfl
theorem updateRecord (h : EventLaws s) (n : Nat) (f : Record → Record) : EventLaws (updateRecord n f s) :=
  h.of_eventSets rfl
theorem setPort (h : EventLaws s) (x : Side) (p : Port) : EventLaws (setPort x p s) :=
  h.of_eventSets (by simp [State.eventSets])
theorem latch (h : EventLaws s) (e : Event) : EventLaws (latch e s) := h.onward (.or_left _ _) (.inl rfl) (.inl rfl)

/-- A granted claim may latch CELLS_LOW (R81). -/
theorem claimCells (h : EventLaws s) (n : Nat) : EventLaws (claimCells n s) := by
  refine h.onward ?_ (.inl rfl) (.inl rfl)
  rw [claimCells_latched]
  split
  exacts [.or_left _ _, .refl _]

theorem arbitrate (h : EventLaws s) (x : Side) : EventLaws (arbitrate x s) := by
  rcases arbitrate_cases x s with e | ⟨-, r, -, e⟩ | ⟨-, -, e⟩ <;> rw [e]
  · exact h
  · exact (h.setPort x _).updateRecord _ _
  · exact h.setPort x _

theorem arbitrateBoth (h : EventLaws s) : EventLaws (arbitrateBoth s) := (h.arbitrate .a).arbitrate .b

/-! ## The ends of records -/

/-- Records that end undelivered may latch events, and an EVENT record among them is gone (R123, R126, R176). -/
theorem of_ended (h : EventLaws s) {rs : List Record} (he : Ended rs s t) : EventLaws t := by
  refine h.onward (he.latched ▸ .or_left _ _) (.inl he.reported) ?_
  rw [he.eventRecord]
  split
  exacts [.inr rfl, .inl rfl]

theorem endUndelivered (h : EventLaws s) (r : Record) (why : EndReason) : EventLaws (endUndelivered r why s) :=
  h.of_ended (.one r why s)

/-- The sent set of a delivered EVENT record becomes the reported set (R176). -/
theorem deliver (h : EventLaws s) (r : Record) : EventLaws (deliver r s) := by
  have hr := released_deliver r s
  have hrecord : (Machine.deliver r s).eventRecord = s.eventRecord ∨ (Machine.deliver r s).eventRecord = none := by
    rw [hr.eventRecord]
    split
    exacts [.inr rfl, .inl rfl]
  have hlatched := deliver_latched r s
  by_cases hkept : r.origin ≠ .relay .event ∨ s.eventRecord = none
  · exact h.onward (hlatched ▸ .refl _) (.inl (hr.reported hkept)) hrecord
  · obtain ⟨ho, hs⟩ := not_or.mp hkept
    obtain ⟨f, hf⟩ := Option.ne_none_iff_exists'.mp hs
    have ho := not_not.mp ho
    refine ⟨?_, fun g hg => ?_⟩
    · rw [deliver_reported ho hf, hlatched]
      exact h.sent f hf
    · rw [(hr.event_told ho hf).1] at hg
      cases hg

theorem outcomeFailed (h : EventLaws s) (r : Record) (why : EndReason) : EventLaws (outcomeFailed r why s) := by
  rcases outcomeFailed_cases r why s with ⟨_, e⟩ | e <;> rw [e]
  exacts [h.endUndelivered _ _, h.updateRecord _ _]

theorem slotOutcome (h : EventLaws s) (o : SlotOutcome) (n : Nat) : EventLaws (slotOutcome o n s) := by
  unfold Machine.slotOutcome
  split
  · exact h
  · rename_i r _
    cases o with
    | ack => exact h.deliver r
    | busy =>
      rcases outcomeBusy_cases r s with ⟨_, e⟩ | e <;> simp only [e]
      exacts [h.endUndelivered _ _, h.updateRecord _ _]
    | reject reason =>
      simp only [outcomeReject]
      split <;> exact h.endUndelivered _ _
    | noReply => exact h.outcomeFailed r _

theorem reportSlot (h : EventLaws s) (x : Side) (o : SlotOutcome) : EventLaws (reportSlot x o s) := by
  unfold Machine.reportSlot
  split
  exacts [h, h.slotOutcome o _]

theorem withdraw (h : EventLaws s) (r : Record) (cause : Mark) : EventLaws (withdraw r cause s) := by
  rcases withdraw_cases r cause s with ⟨-, e⟩ | ⟨-, e⟩ | ⟨-, e⟩ <;> rw [e]
  · exact h
  · exact h.updateRecord _ _
  · refine EventLaws.endUndelivered ?_ r _
    rcases dropRecordChoice_cases r s with e | ⟨-, e⟩ <;> rw [e]
    exacts [h, h.setPort _ _]

theorem withdrawAll (h : EventLaws s) (cause : Mark) (rs : List Record) : EventLaws (withdrawAll cause rs s) :=
  withdrawAll_induction cause rs (fun r _ hv => hv.withdraw r cause) h

theorem routeCheck (h : EventLaws s) (chosen : Record → Bool) : EventLaws (routeCheck chosen s) :=
  (h.withdrawAll _ _).arbitrateBoth

theorem purgeRecords (h : EventLaws s) (destination : Option Nat) (side : Option Side) :
    EventLaws (purgeRecords destination side s) :=
  (h.withdrawAll _ _).arbitrateBoth

/-! ## Plain queues and the segment reset -/

theorem releaseHead (h : EventLaws s) (x : Side) : EventLaws (releaseHead x s) := by
  cases hq : s.queue x with
  | nil => rwa [Machine.releaseHead, hq]
  | cons e rest =>
    rw [releaseHead_cons hq]
    exact h.of_eventSets (by simp [State.eventSets])

theorem flushQueue (h : EventLaws s) (x : Side) : EventLaws (flushQueue x s) := by
  rw [flushQueue_eq]
  exact h.of_eventSets (by simp [State.eventSets])

theorem plainHandOff (h : EventLaws s) (x : Side) (t : Telegram) : EventLaws (plainHandOff x t s) := by
  by_cases hfit : s.fitsPlain x t
  · rw [(plainHandOff_cases x t s).1 hfit]
    have hjoin : EventLaws (joinQueue x t s) := 
      (h.claimCells (cellsFor t.payload.length)).of_eventSets (by simp [State.eventSets, joinQueue])
    exact hjoin.arbitrate _
  · rw [(plainHandOff_cases x t s).2 hfit]
    exact h.count _

/-- A segment reset latches, ends records and may empty the reported set (R53, R130, R150, R182). -/
theorem segmentReset (h : EventLaws s) (x : Side) : EventLaws (segmentReset x s) := by
  have hport : EventLaws (segmentResetPort x s) := by
    rw [segmentResetPort_eq]
    exact (h.of_eventSets (by simp [State.eventSets])).latch _
  have hlines : EventLaws (resetLines x s) := hport.of_ended (ended_resetLines x s)
  have hblocks : EventLaws (resetBlocks x (resetLines x s)) := by
    rw [resetBlocks_eq]
    refine hlines.onward (.or_left _ _) ?_ (.inl rfl)
    dsimp only
    split
    exacts [.inr rfl, .inl rfl]
  rw [segmentReset_eq]
  exact hblocks.arbitrateBoth

/-! ## The forwarding decision -/

theorem learn (h : EventLaws s) (x : Side) (src : Nat) : EventLaws (learn x src s) := by
  have hput : ∀ e, EventLaws (putStation e s) := fun _ => h.of_eventSets rfl
  rcases learn_cases x src s with e | e | ⟨_, e⟩ | ⟨_, _, e⟩ <;> rw [e]
  · exact h
  · exact (h.count _).latch _
  · exact hput _
  · exact ((hput _).latch _).routeCheck _

theorem recordFinal (h : EventLaws s) (x : Side) (t : Telegram) (reply : FinalReply) :
    EventLaws (recordFinal x t reply s) := by
  refine h.of_eventSets ?_
  unfold Machine.recordFinal makeDupRoom
  dsimp only
  (repeat' split) <;> rfl

theorem answerDuplicate (h : EventLaws s) {x : Side} {t : Telegram} {reply : FinalReply} {v : State}
    (ha : answerDuplicate x t s = some (reply, v)) : EventLaws v := by
  unfold Machine.answerDuplicate at ha
  split at ha
  · cases ha
  · split at ha <;> cases ha
    exact h.of_eventSets rfl

theorem giveChosen (h : EventLaws s) (x : Side) (t : Telegram) (reply : FinalReply) :
    EventLaws (giveChosen x t reply s).2 := by
  unfold Machine.giveChosen
  split
  exacts [h.answerDuplicate (by assumption), h.recordFinal x t reply]

theorem acceptRequest (h : EventLaws s) (x : Side) (t : Telegram) : EventLaws (acceptRequest x t s).2 := by
  have hstore : EventLaws (storeRequest x t s) := (h.claimCells _).of_eventSets rfl
  unfold Machine.acceptRequest
  split
  · exact h.answerDuplicate (by assumption)
  · split
    exacts [h, hstore.recordFinal x t _]

theorem acceptCustody (h : EventLaws s) (x : Side) (t : Telegram) (admitted : Bool) :
    EventLaws (acceptCustody x t admitted s).2 := by
  have hinsert : EventLaws (insertRecord (forwardRecord x t s) (Machine.claimCells (cellsFor t.payload.length) s)) :=
    (h.claimCells _).of_eventSets rfl
  unfold Machine.acceptCustody
  split
  · exact h.answerDuplicate (by assumption)
  · split
    · exact h.recordFinal x t _
    · split
      · exact h.recordFinal x t _
      · split
        exacts [h, ((hinsert.count _).recordFinal x t _).arbitrate _]

theorem toOwn (h : EventLaws s) (x : Side) (t : Telegram) : EventLaws (toOwn x t s).1 := by
  unfold Machine.toOwn
  split
  · exact h.acceptRequest x t
  · exact h.giveChosen x t _
  · exact h.giveChosen x t _
  · exact h.giveChosen x t _
  · exact h.giveChosen x t _
  all_goals exact h

theorem sresetArrival (h : EventLaws s) (x : Side) (t : Telegram) : EventLaws (sresetArrival x t s) := by
  unfold Machine.sresetArrival
  dsimp only
  split
  exacts [(h.segmentReset x).plainHandOff x t, h.segmentReset x]

theorem toKnown (h : EventLaws s) (x : Side) (t : Telegram) (e : StationEntry) : EventLaws (toKnown x t e s).1 := by
  unfold Machine.toKnown
  split
  · exact h
  · split
    · exact h.acceptCustody x t _
    · split
      exacts [h.plainHandOff x t, h]

theorem toUnknown (h : EventLaws s) (x : Side) (t : Telegram) : EventLaws (toUnknown x t s).1 := by
  unfold Machine.toUnknown
  split
  · split
    exacts [h.acceptCustody x t _, h.plainHandOff x t]
  · exact h
  · split
    exacts [h.giveChosen x t _, h]

theorem classify (h : EventLaws s) (x : Side) (t : Telegram) : EventLaws (classify x t s).1 := by
  unfold Machine.classify
  split
  · exact h
  · split
    · split
      exacts [h.plainHandOff x t, h]
    · split
      · split
        exacts [h.plainHandOff x t, h]
      · split
        exacts [h.toKnown x t _, h.toUnknown x t]

theorem slotArrival (h : EventLaws s) (x : Side) (t : Telegram) : EventLaws (slotArrival x t s) := by
  unfold Machine.slotArrival
  split
  · split
    exacts [h, h.reportSlot x _]
  · exact (h.count _).reportSlot x _

theorem dispose (h : EventLaws s) (x : Side) (t : Telegram) : EventLaws (dispose x t s).1 := by
  unfold Machine.dispose
  split
  · exact h.slotArrival x t
  · split
    · exact h.count _
    · split
      · exact h.toOwn x t
      · split
        · dsimp only
          exact h.sresetArrival x t
        · exact h.classify x t

/-- The source check latches SOURCE_CONFLICT (R47); the rest is the decision on what is left (R46). -/
theorem forward (h : EventLaws s) (x : Side) (t : Telegram) : EventLaws (forward x t s).1 := by
  unfold Machine.forward
  split
  · have hconflict := (h.count .sourceConflicts).latch .sourceConflict
    dsimp only
    split
    exacts [hconflict.reportSlot x _, hconflict]
  · exact (h.learn x t.src).dispose x t

/-! ## The end of a step -/

theorem placeRelayRecord (h : EventLaws s) (role : Role) (destination : Nat) (side : Side) (payload : List Byte) :
    EventLaws (placeRelayRecord role destination side payload s) := h.of_eventSets rfl

/-- The sent set of a new EVENT record is what is latched and unmasked (R175). -/
theorem createEvent (h : EventLaws s) : EventLaws (createEvent s) := by
  unfold Machine.createEvent
  split
  · exact h
  · rename_i station side _
    have hplaced := (h.claimCells 1).placeRelayRecord .event station side (eventPayload (Machine.claimCells 1 s))
    refine ⟨hplaced.reported, fun f hf => ?_⟩
    obtain rfl := Option.some.inj hf
    exact .and_left _ _

theorem testSend (h : EventLaws s) : EventLaws (testSend s) := by
  rcases testSend_cases s with ⟨-, e⟩ | ⟨-, e⟩ <;> rw [e]
  exacts [h.createEvent, h.of_eventSets rfl]

theorem withdrawClaim (h : EventLaws s) : EventLaws (withdrawClaim s) := h.of_eventSets rfl
theorem closeTests (h : EventLaws s) : EventLaws (closeTests s) := h.of_eventSets rfl

theorem finish (h : EventLaws s) : EventLaws (finish s) := by
  have hclaim := h.arbitrateBoth.withdrawClaim
  unfold Machine.finish
  dsimp only
  split
  exacts [hclaim, hclaim.testSend.arbitrateBoth.closeTests]

/-! ## The steps of the lines -/

theorem activityStarts (h : EventLaws s) (x : Side) : EventLaws (activityStarts x s) := by
  unfold Machine.activityStarts
  dsimp only
  split
  exacts [h.setPort x _, h.setPort x _, h.setPort x _, h.setPort x _, h, h]

theorem leaveAwait (h : EventLaws s) (x : Side) : EventLaws (leaveAwait x s) := by
  unfold Machine.leaveAwait
  split
  exacts [h.setPort x _, h]

theorem discarded (h : EventLaws s) (x : Side) (c : Counter) : EventLaws (discarded x c s) := by
  unfold Machine.discarded
  dsimp only
  split
  exacts [(h.count c).reportSlot x _, h.count c]

theorem takeReception (h : EventLaws s) (x : Side) (bytes : List Byte) : EventLaws (takeReception x bytes s) := by
  unfold Machine.takeReception
  refine EventLaws.leaveAwait ?_ x
  split
  · exact h.discarded x _
  · exact h.discarded x _
  · rename_i t _
    have hf := (h.count (.rxGood x)).forward x t
    unfold answerSlot
    split
    exacts [hf.setPort x _, hf]

theorem receptionEnds (h : EventLaws s) (x : Side) (bytes : List Byte) : EventLaws (receptionEnds x bytes s) := by
  have hquiet := h.setPort x ((s.port x).lineQuiet s.now)
  unfold Machine.receptionEnds
  dsimp only
  split
  · exact h
  · exact h
  · exact hquiet
  all_goals
    split
    exacts [hquiet, (hquiet.takeReception x bytes).finish]

theorem replyIsSent (h : EventLaws s) (x : Side) : EventLaws (replyIsSent x s) := by
  have hcount : EventLaws (countReply x s) := by
    unfold countReply
    split
    exacts [h.count _, h]
  unfold Machine.replyIsSent
  split
  exacts [(hcount.setPort x _).finish, h]

theorem quietWaitEnds (h : EventLaws s) (x : Side) : EventLaws (quietWaitEnds x s) := by
  unfold Machine.quietWaitEnds
  dsimp only
  split
  exacts [(h.reach _).setPort x _, h]

theorem withdrawMarked (h : EventLaws s) (x : Side) : EventLaws (withdrawMarked x s) := by
  unfold Machine.withdrawMarked
  split
  · split
    · split
      exacts [(h.setPort x _).endUndelivered _ _, h]
    · exact h
  · exact h

theorem giveUpChoice (h : EventLaws s) (x : Side) (c : Option Choice) : EventLaws (giveUpChoice x c s) := by
  unfold Machine.giveUpChoice outcomeNoAccess
  split
  · exact (h.releaseHead x).count _
  · split
    exacts [h, h.outcomeFailed _ _]
  · exact h

theorem lineIsLost (h : EventLaws s) (x : Side) : EventLaws (lineIsLost x s) := by
  have hport := fun p => (h.count (.contentionLosses x)).setPort x p
  unfold Machine.lineIsLost
  dsimp only
  split
  · refine EventLaws.finish ?_
    split
    exacts [(hport _).withdrawMarked x, (hport _).giveUpChoice x _]
  · exact h

theorem transmissionEnds (h : EventLaws s) (x : Side) : EventLaws (transmissionEnds x s) := by
  have hport := fun p => (h.count (.txTelegrams x)).setPort x p
  unfold Machine.transmissionEnds
  dsimp only
  split
  · split
    · refine EventLaws.finish ?_
      unfold plainIsSent
      dsimp only
      split
      exacts [((hport _).releaseHead x).segmentReset x, (hport _).releaseHead x]
    · exact (hport _).updateRecord _ _
    · exact h
  · exact h

theorem lineOkChanged (h : EventLaws s) (x : Side) (level : Bool) : EventLaws (lineOkChanged x level s) := by
  unfold Machine.lineOkChanged
  split
  exacts [h, h.setPort x _]

/-! ## The timers -/

theorem abandonRecord (h : EventLaws s) (n : Nat) : EventLaws (abandonRecord n s) := by
  unfold Machine.abandonRecord
  split
  · exact h
  · split
    exacts [h.endUndelivered _ _, h.updateRecord _ _]

theorem lineGoesDown (h : EventLaws s) (x : Side) : EventLaws (lineGoesDown x s) := by
  unfold Machine.lineGoesDown
  dsimp only
  split
  · refine EventLaws.finish ?_
    have hdown := fun p => (h.reach ((s.port x).lineOkSince + Config.lowDebounce)).setPort x p
    unfold enterDown
    dsimp only
    split
    exacts [(((hdown _).abandonRecord _).flushQueue x).latch _, ((hdown _).flushQueue x).latch _]
  · exact h

theorem lineComesUp (h : EventLaws s) (x : Side) : EventLaws (lineComesUp x s) := by
  unfold Machine.lineComesUp
  dsimp only
  split
  exacts [(((h.reach _).setPort x _).latch _).finish, h]

theorem replyTimerExpires (h : EventLaws s) (x : Side) : EventLaws (replyTimerExpires x s) := by
  unfold Machine.replyTimerExpires
  dsimp only
  split
  exacts [(((h.reach _).reportSlot x _).leaveAwait x).finish, h]

theorem holdEnds (h : EventLaws s) (n : Nat) : EventLaws (holdEnds n s) := by
  unfold Machine.holdEnds
  split
  · exact h
  · split
    exacts [((h.reach _).updateRecord _ _).finish, h, h, h]

theorem lifetimeEnds (h : EventLaws s) (n : Nat) : EventLaws (lifetimeEnds n s) := by
  unfold Machine.lifetimeEnds
  split
  exacts [h, ((h.reach _).withdraw _ _).finish]

theorem dupHoldEnds (h : EventLaws s) (source : Nat) : EventLaws (dupHoldEnds source s) := by
  unfold Machine.dupHoldEnds
  split
  exacts [h, h.of_eventSets rfl]

/-- The lease's end latches SESSION_LAPSED (R149). -/
theorem leaseEnds (h : EventLaws s) : EventLaws (leaseEnds s) := by
  unfold Machine.leaseEnds
  split
  · exact h
  · rename_i c _
    have hclosed : EventLaws { Machine.reach c.leaseEnd s with session := none } := h.of_eventSets rfl
    exact (hclosed.latch _).finish

theorem eventRepeatEnds (h : EventLaws s) : EventLaws (eventRepeatEnds s) := by
  unfold Machine.eventRepeatEnds
  split
  exacts [finish (h.of_eventSets rfl), h, h]

end EventLaws

end Sys2Proof.Machine
end

section
/-! SUPPORT. The laws of the event sets through the execution of a request, the due steps and every command; the statement on
them, and the one on EVENT_REPEAT_EXPIRY. -/

namespace Sys2Proof.Machine

/-! ## The execution of a request -/

/-- No command but COMMIT, PURGE, SET_EVENT_STATION and CLEAR_EVENTS touches the event sets or the EVENT record (R155,
part 4). -/
theorem carryOut_eventSets {c : Command} (hc : c ∉ [Command.commit, .purge, .setEventStation, .clearEvents]) (q : Request)
    (s : State) : (carryOut c q s).1.eventSets = s.eventSets := by
  cases c with
  | commit | purge | setEventStation | clearEvents => simp at hc
  | identify | readEvents => rfl
  | readStations | readConfig | readCounters | readCustody | openSession | closeSession | stageStation | unstageStation
  | stageGroups | stageParams | restart | setEventMask =>
    simp only [carryOut, doReadStations, doReadConfig, doReadCounters, clearCounters, doReadCustody, doOpenSession,
      doCloseSession, doStageStation, doUnstageStation, doStageGroups, doStageParams, doRestart, doSetEventMask]
    (repeat' split) <;> rfl

namespace EventLaws

variable {s t : State}

theorem settleSession (h : EventLaws s) (keepOpen : Bool) (c : Session) : EventLaws (settleSession keepOpen c s) := by
  unfold Machine.settleSession
  split
  exacts [h.of_eventSets rfl, h.of_eventSets rfl]

/-- COMMIT latches COMMITTED and checks the routes of the records (R147). -/
theorem doCommit (h : EventLaws s) (q : Request) : EventLaws (doCommit q s).1 := by
  have hcommit : ∀ keepOpen c, EventLaws (carryOutCommit keepOpen c s) := fun keepOpen c => by
    have hinstalled : EventLaws (expireDups (installConfig c.staged s)) :=
      h.of_eventSets (by simp only [State.eventSets, expireDups, installConfig])
    exact ((hinstalled.latch .committed).routeCheck fun _ => true).settleSession keepOpen c
  unfold Machine.doCommit
  split
  · exact h
  · split
    · exact h
    · split
      · exact h
      · split
        exacts [hcommit _ _, h]

theorem doPurge (h : EventLaws s) (q : Request) : EventLaws (doPurge q s).1 := by
  unfold Machine.doPurge
  split
  · exact h
  · split
    · exact h
    · split
      exacts [h, h.purgeRecords _ _]

/-- SET_EVENT_STATION empties the reported and the sent set (R178). -/
theorem doSetEventStation (h : EventLaws s) (q : Request) : EventLaws (doSetEventStation q s).1 := by
  unfold Machine.doSetEventStation
  split
  · exact h
  · split
    · exact h
    · refine ⟨.zero _, fun f hf => ?_⟩
      obtain ⟨g, -, rfl⟩ := Option.map_eq_some_iff.mp hf
      exact .zero _

/-- CLEAR_EVENTS takes the same events from all three sets (R179). -/
theorem doClearEvents (h : EventLaws s) (q : Request) : EventLaws (doClearEvents q s).1 := by
  unfold Machine.doClearEvents
  split
  · exact h
  · split
    · exact h
    · refine ⟨h.reported.and_right _, fun f hf => ?_⟩
      obtain ⟨g, hg, rfl⟩ := Option.map_eq_some_iff.mp hf
      exact (h.sent g hg).and_right _

theorem carryOut (h : EventLaws s) (c : Command) (q : Request) : EventLaws (carryOut c q s).1 := by
  by_cases hc : c ∈ [Command.commit, .purge, .setEventStation, .clearEvents]
  · simp only [List.mem_cons, List.not_mem_nil, or_false] at hc
    rcases hc with rfl | rfl | rfl | rfl
    exacts [h.doCommit q, h.doPurge q, h.doSetEventStation q, h.doClearEvents q]
  · exact h.of_eventSets (carryOut_eventSets hc q s)

theorem decideRequest (h : EventLaws s) (q : Request) : EventLaws (decideRequest q s).1 := by
  obtain ⟨session, hrenew, -⟩ := renewLease_eq q s
  have hlease : EventLaws (renewLease q s) := h.of_eventSets (by rw [hrenew]; rfl)
  unfold Machine.decideRequest
  dsimp only
  split
  exacts [hlease.carryOut _ q, hlease]

theorem leaveQueue (h : EventLaws s) (q : Request) (rest : List Request) : EventLaws (leaveQueue q rest s) :=
  h.of_eventSets rfl

theorem executeHead (h : EventLaws s) : EventLaws (executeHead s) := by
  unfold Machine.executeHead
  split
  · exact h
  · rename_i q rest _
    exact (((h.decideRequest q).claimCells _).placeRelayRecord _ _ _ _).leaveQueue q rest

/-! ## The due steps and every command -/

theorem carryOutDue (h : EventLaws s) (d : Due) : EventLaws (carryOutDue d s) := by
  refine EventLaws.finish ?_
  cases d with
  | restart k => cases k <;> exact cleared rfl rfl
  | responseClaim => exact h.executeHead
  | eventClaim => exact h.createEvent
  | head => exact h.executeHead

theorem takeDue (h : EventLaws s) (wanted : State → Due → Bool) (n : Nat) : EventLaws (takeDue wanted n s) := by
  induction n generalizing s with
  | zero => exact h
  | succ n ih =>
    unfold Machine.takeDue
    split
    · exact h
    · split
      exacts [h.carryOutDue _, ih (h.carryOutDue _)]

theorem settle (h : EventLaws s) : EventLaws (settle s) := h.takeDue _ _

theorem fromOutside (h : EventLaws s) (dt : Nat) {effect : State → State} (he : ∀ v, EventLaws v → EventLaws (effect v)) :
    ∃ t, fromOutside dt effect s = .next t ∧ EventLaws t := by
  refine ⟨_, rfl, ?_⟩
  split
  exacts [h.settle.elapse dt, he _ (h.settle.elapse dt)]

theorem fromTimer (h : EventLaws s) {effect : State → State} (he : ∀ v, EventLaws v → EventLaws (effect v)) :
    ∃ t, fromTimer effect s = .next t ∧ EventLaws t := by
  refine ⟨_, rfl, ?_⟩
  split
  exacts [h.settle, he _ h.settle]

/-- Every command answers next, and keeps the laws of the event sets. -/
theorem exec (h : EventLaws s) (c : Instr) : ∃ t, exec c s = .next t ∧ EventLaws t := by
  cases c with
  | hardwareReset dt straps => exact ⟨_, rfl, cleared rfl rfl⟩
  | lineDown x => exact h.fromTimer fun _ hv => hv.lineGoesDown x
  | lineUp x => exact h.fromTimer fun _ hv => hv.lineComesUp x
  | lineActivityStart dt x => exact h.fromOutside dt fun _ hv => hv.activityStarts x
  | receptionEnd dt x bytes => exact h.fromOutside dt fun _ hv => hv.receptionEnds x bytes
  | replySent dt x => exact h.fromOutside dt fun _ hv => hv.replyIsSent x
  | quietWaitComplete x => exact h.fromOutside 0 fun _ hv => hv.quietWaitEnds x
  | contentionLoss dt x => exact h.fromOutside dt fun _ hv => hv.lineIsLost x
  | transmitDone dt x => exact h.fromOutside dt fun _ hv => hv.transmissionEnds x
  | replyTimerExpiry x => exact h.fromTimer fun _ hv => hv.replyTimerExpires x
  | holdEnd n => exact h.fromTimer fun _ hv => hv.holdEnds n
  | lifetimeExpiry n => exact h.fromTimer fun _ hv => hv.lifetimeEnds n
  | agingTick => exact h.fromTimer fun _ hv => hv.of_eventSets rfl
  | dupHoldExpiry source => exact h.fromTimer fun _ hv => hv.dupHoldEnds source
  | leaseExpiry => exact h.fromTimer fun _ hv => hv.leaseEnds
  | eventRepeatExpiry => exact h.fromTimer fun _ hv => hv.eventRepeatEnds
  | lineOkChange dt x level => exact ⟨_, rfl, (h.settle.elapse dt).lineOkChanged x level⟩
  | resetNLow dt lowFor =>
    refine ⟨_, rfl, ?_⟩
    split
    exacts [h.settle.elapse dt, ((h.settle.elapse dt).elapse lowFor).of_eventSets rfl]
  | restartFull straps =>
    have hpins : EventLaws { s with pins := straps } := h.of_eventSets rfl
    exact ⟨_, rfl, hpins.takeDue _ _⟩
  | eventClaimGranted | responseClaimGranted | malformedRequest | identify | readStations | readConfig | readCounters
  | readCustody | readEvents | openSession | closeSession | stageStation | unstageStation | stageGroups | stageParams
  | commit | purge | restart | restartQueues | setEventStation | setEventMask | clearEvents =>
    exact ⟨_, rfl, h.takeDue _ _⟩

theorem step (h : EventLaws s) (ht : step s = .next t) : EventLaws t := by
  unfold Machine.step at ht
  split at ht
  · exact Host.Outcome.next.inj ht ▸ h
  · rename_i c rest _
    have hs : EventLaws { s with pending := rest } := h.of_eventSets rfl
    obtain ⟨v, hv, hlaws⟩ := hs.exec c
    exact Host.Outcome.next.inj (hv.symm.trans ht) ▸ hlaws

end EventLaws

/-! ## EVENT_REPEAT_EXPIRY -/

theorem eventRepeatEnds_of_running {s : State} {m : Nat} (h : s.repeatTimer = .running m) :
    eventRepeatEnds s = finish { s with now := max s.now m, repeatTimer := .expired } := by
  rw [eventRepeatEnds, h]
  rfl

end Sys2Proof.Machine

namespace Sys2Proof.Settled

open Sys2Proof.Machine

/-- Settles O58: every step keeps the reported and the sent set within the latched set. -/
theorem eventSetsKept : Obligations.EventSetsKept := fun s t hs ht =>
  (eventSetsOk_iff t).mpr (((eventSetsOk_iff s).mp hs).step ht)

/-- Settles O41: the timer is EXPIRED at its moment, and the step ends. -/
theorem eventRepeatExpiry : Obligations.EventRepeatExpiry := fun _ _ hready hn hm =>
  fromTimer_endsAs hready (eventRepeatEnds_of_running hm) hn

end Sys2Proof.Settled
end

section
/-! SUPPORT. SET_EVENT_STATION, SET_EVENT_MASK and CLEAR_EVENTS by their arguments (R178, R180, R179), and the statement on
them. -/

namespace Sys2Proof.Machine

/-- The event set that two argument bytes spell, high byte first (R187). -/
theorem ofNat_two_bytes (b1 b0 : Byte) : BitVec.ofNat 16 (b1.toNat * 256 + b0.toNat) = (b1 ++ b0 : EventSet) := by
  refine BitVec.eq_of_toNat_eq ?_
  have h1 := b1.isLt
  have h0 := b0.isLt
  rw [BitVec.toNat_append, BitVec.toNat_ofNat, ← Nat.shiftLeft_add_eq_or_of_lt h0, Nat.shiftLeft_eq]
  omega

/-- The station numbers that SET_EVENT_STATION takes (R178): 0 for none, or an individual number other than OWN. -/
theorem eventStation_ok_iff (own n : Nat) :
    (n == 0 || (isIndividual n && n != own)) = true ↔ n = 0 ∨ (1 ≤ n ∧ n ≤ 1983 ∧ n ≠ own) := by
  simp [isIndividual, and_assoc]

/-- The lease does not touch what the Event Unit holds. -/
theorem renewLease_keepsEvents (q : Request) (s : State) : KeepsEvents s (renewLease q s) := by
  obtain ⟨_, h, -⟩ := renewLease_eq q s
  rw [h]
  exact ⟨rfl, rfl, rfl, rfl, rfl, rfl⟩

theorem own_renewLease (q : Request) (s : State) : (renewLease q s).own = s.own := by
  obtain ⟨_, h, -⟩ := renewLease_eq q s
  rw [h]

section
variable {q : Request} {s : State} (hp : s.permits q.station = true)
include hp

theorem doSetEventStation_good {n : Nat}
    (h : argIn q.args 0 2 (fun v => v == 0 || (isIndividual v && v != s.own)) = some n) :
    doSetEventStation q s =
      ({ s with
          eventStation := if n = 0 then none else some (n, q.side)
          reported := 0#16
          eventRecord := s.eventRecord.map (fun f => { f with sent := 0#16 }) }, doneWith []) := by
  rw [doSetEventStation, if_neg (by simp [hp]), h]

theorem doSetEventStation_bad (h : argIn q.args 0 2 (fun v => v == 0 || (isIndividual v && v != s.own)) = none) :
    doSetEventStation q s = (s, badArgument 0) := by
  rw [doSetEventStation, if_neg (by simp [hp]), h]

theorem doSetEventMask_good {m : Nat} (h : argAt q.args 0 2 = some m) :
    doSetEventMask q s = ({ s with mask := BitVec.ofNat 16 m }, doneWith []) := by
  rw [doSetEventMask, if_neg (by simp [hp]), h]

theorem doSetEventMask_short (h : argAt q.args 0 2 = none) : doSetEventMask q s = (s, badArgument 0) := by
  rw [doSetEventMask, if_neg (by simp [hp]), h]

theorem doClearEvents_good {m : Nat} (h : argAt q.args 0 2 = some m) :
    doClearEvents q s =
      ({ s with
          latched := s.latched &&& ~~~ BitVec.ofNat 16 m
          reported := s.reported &&& ~~~ BitVec.ofNat 16 m
          eventRecord := s.eventRecord.map (fun f => { f with sent := f.sent &&& ~~~ BitVec.ofNat 16 m }) },
        doneWith []) := by
  rw [doClearEvents, if_neg (by simp [hp]), h]

theorem doClearEvents_short (h : argAt q.args 0 2 = none) : doClearEvents q s = (s, badArgument 0) := by
  rw [doClearEvents, if_neg (by simp [hp]), h]

end

end Sys2Proof.Machine

namespace Sys2Proof.Settled

open Sys2Proof.Machine

/-- Settles O56: each event command by its two argument bytes, and their want. -/
theorem eventCommands : Obligations.EventCommands := by
  intro s q rest hn he hp s1 gives
  have hp1 : s1.permits q.station = true := (permits_renewLease ..).trans hp
  obtain ⟨hlatched, -, hreported, -, hrecord, -⟩ := renewLease_keepsEvents q s
  have hown : s1.own = s.own := own_renewLease q s
  have hends : ∀ {k cmd o results s'}, executes k = some (some cmd) → q.command = some cmd →
      carryOut cmd q s1 = (s', { outcome := o, results := results }) → gives k o results s' :=
    fun hk hq hd => execution_endsAs hn he hk hq hd
  refine ⟨fun b1 b0 extra hargs => ?_, fun hshort => ⟨fun hq => ?_, fun hq => ?_, fun hq => ?_⟩⟩
  · intro n set
    have harg : argAt q.args 0 2 = some n := hargs ▸ argAt_two ..
    have hset : BitVec.ofNat 16 n = set := ofNat_two_bytes b1 b0
    refine ⟨fun hq => ⟨fun hok => ?_, fun hbad => ?_⟩, fun hq => ?_, fun hq => ?_⟩
    · rw [← hown, ← eventStation_ok_iff] at hok
      rw [← hrecord]
      exact hends rfl hq (doSetEventStation_good hp1 (argIn_of_ok harg hok))
    · refine hends rfl hq (doSetEventStation_bad hp1 (argIn_of_bad harg ?_))
      rw [Bool.eq_false_iff, Ne, eventStation_ok_iff, hown]
      omega
    · exact hset ▸ hends rfl hq (doSetEventMask_good hp1 harg)
    · rw [← hlatched, ← hreported, ← hrecord, ← hset]
      exact hends rfl hq (doClearEvents_good hp1 harg)
  · exact hends rfl hq (doSetEventStation_bad hp1 (argIn_of_short (by omega)))
  · exact hends rfl hq (doSetEventMask_short hp1 (argAt_of_short (by omega)))
  · exact hends rfl hq (doClearEvents_short hp1 (argAt_of_short (by omega)))

end Sys2Proof.Settled
end

section
/-! SUPPORT. Telegrams as bytes (R4, R7, R184): the header's word against its bytes and its fields, the check word, and which
bytes are read as which telegram (R8, R9), of a header and payload and of a reception once each; the statements on them. -/

namespace Sys2Proof.Machine

/-! ## Bit strings as numbers -/

theorem toNat_append_eq {m n : Nat} (x : BitVec m) (y : BitVec n) : (x ++ y).toNat = x.toNat * 2 ^ n + y.toNat := by
  rw [BitVec.toNat_append, ← Nat.shiftLeft_add_eq_or_of_lt y.isLt, Nat.shiftLeft_eq]

theorem toNat_extractLsb'_eq {n : Nat} (start len : Nat) (x : BitVec n) :
    (x.extractLsb' start len).toNat = x.toNat / 2 ^ start % 2 ^ len := by
  rw [BitVec.extractLsb'_toNat, Nat.shiftRight_eq_div_pow]

/-! ## The header's word -/

/-- The header as one word, the first byte highest (R184). -/
def headerWord (b0 b1 b2 b3 b4 : Byte) : BitVec 40 := b0 ++ b1 ++ b2 ++ b3 ++ b4

/-- The five bytes of a header's word. -/
def wordBytes (h : BitVec 40) : List Byte :=
  [h.extractLsb' 32 8, h.extractLsb' 24 8, h.extractLsb' 16 8, h.extractLsb' 8 8, h.extractLsb' 0 8]

theorem headerBytes_eq (t : Telegram) : headerBytes t = wordBytes (headerBits t) := rfl

theorem toNat_headerWord (b0 b1 b2 b3 b4 : Byte) : (headerWord b0 b1 b2 b3 b4).toNat =
    b0.toNat * 2 ^ 32 + b1.toNat * 2 ^ 24 + b2.toNat * 2 ^ 16 + b3.toNat * 2 ^ 8 + b4.toNat := by
  simp only [headerWord, toNat_append_eq]
  omega

/-- A word's bytes make the word. -/
theorem headerWord_extract (h : BitVec 40) : headerWord (h.extractLsb' 32 8) (h.extractLsb' 24 8) (h.extractLsb' 16 8)
    (h.extractLsb' 8 8) (h.extractLsb' 0 8) = h := by
  apply BitVec.eq_of_toNat_eq
  simp only [toNat_headerWord, toNat_extractLsb'_eq]
  omega

/-- The bytes of the word that five bytes make are the five. -/
theorem wordBytes_headerWord (b0 b1 b2 b3 b4 : Byte) : wordBytes (headerWord b0 b1 b2 b3 b4) = [b0, b1, b2, b3, b4] := by
  simp only [wordBytes, List.cons.injEq, and_true]
  refine ⟨?_, ?_, ?_, ?_, ?_⟩
  all_goals
    apply BitVec.eq_of_toNat_eq
    simp only [toNat_headerWord, toNat_extractLsb'_eq]
    omega

/-! ## The header's fields -/

/-- A telegram's header has the telegram's fields at their bits (R184). -/
theorem extract_headerBits (t : Telegram) :
    (headerBits t).extractLsb' 29 11 = BitVec.ofNat 11 t.dst ∧ (headerBits t).extractLsb' 18 11 = BitVec.ofNat 11 t.src
      ∧ (headerBits t).extractLsb' 14 4 = t.kind.code ∧ (headerBits t).extractLsb' 10 4 = t.seq
      ∧ (headerBits t).extractLsb' 8 2 = 0#2 ∧ (headerBits t).extractLsb' 0 8 = BitVec.ofNat 8 t.payload.length := by
  refine ⟨?_, ?_, ?_, ?_, ?_, ?_⟩
  all_goals
    apply BitVec.eq_of_toNat_eq
    simp only [headerBits, toNat_extractLsb'_eq, toNat_append_eq]
    omega

/-- A word is made of the fields at their bits (R184). -/
theorem append_extracted_fields (h : BitVec 40) : h.extractLsb' 29 11 ++ h.extractLsb' 18 11 ++ h.extractLsb' 14 4
    ++ h.extractLsb' 10 4 ++ h.extractLsb' 8 2 ++ h.extractLsb' 0 8 = h := by
  apply BitVec.eq_of_toNat_eq
  simp only [toNat_append_eq, toNat_extractLsb'_eq]
  omega

/-- The header's word by its fields, which fit their bits (R184). -/
theorem toNat_headerBits {t : Telegram} (hd : t.dst ≤ 2047) (hs : t.src ≤ 2047) (hl : t.payload.length ≤ 255) :
    (headerBits t).toNat = t.dst * 2 ^ 29 + t.src * 2 ^ 18 + t.kind.code.toNat * 2 ^ 14 + t.seq.toNat * 2 ^ 10
      + t.payload.length := by
  simp only [headerBits, toNat_append_eq, BitVec.toNat_ofNat]
  omega

/-! ## Kinds -/

theorem ofCode_code (k : Kind) : Kind.ofCode k.code = some k := by cases k <;> rfl

theorem code_of_ofCode {c : BitVec 4} {k : Kind} (h : Kind.ofCode c = some k) : k.code = c := by
  unfold Kind.ofCode at h
  split at h
  case h_11 => cases h
  all_goals
    cases h
    exact BitVec.eq_of_toNat_eq (Eq.symm ‹_›)

/-- An undefined code names no kind (R184). -/
theorem ofCode_undefined {c : BitVec 4} (h : c.toNat = 0 ∨ 11 ≤ c.toNat) : Kind.ofCode c = none := by
  unfold Kind.ofCode
  split
  case h_11 => rfl
  all_goals omega

/-! ## What R9 lets pass -/

/-- The conditions of R9, one after another. -/
theorem fieldsOk_iff (reserved : BitVec 2) (len : Nat) (t : Telegram) : fieldsOk reserved len t = true ↔
    len ≤ 240 ∧ len = t.payload.length ∧ reserved = 0#2 ∧ 1 ≤ t.src ∧ t.src ≤ 1983 ∧ t.dst ≠ 0
      ∧ (t.kind.isConfirmed = true ∨ t.kind.isReply = true → t.dst < 1984)
      ∧ (t.kind = .ack ∨ t.kind = .busy → len = 0) ∧ (t.kind = .reject → len = 1)
      ∧ (t.kind = .sreset → t.dst = 2047 ∧ len = 0) := by
  simp only [fieldsOk, isIndividual, broadcast, Bool.and_eq_true, decide_eq_true_eq, beq_iff_eq, bne_iff_ne]
  cases t.kind <;> simp [Kind.isConfirmed, Kind.isReply, and_assoc]

/-! ## Header and payload -/

/-- The telegram whose fields stand at their bits in a header's word (R184). -/
def readFields (h : BitVec 40) (kind : Kind) (payload : List Byte) : Telegram where
  dst := (h.extractLsb' 29 11).toNat
  src := (h.extractLsb' 18 11).toNat
  kind := kind
  seq := h.extractLsb' 10 4
  payload := payload

theorem headerBits_readFields {h : BitVec 40} {kind : Kind} {payload : List Byte} (hkind : kind.code = h.extractLsb' 14 4)
    (hreserved : h.extractLsb' 8 2 = 0#2) (hlen : (h.extractLsb' 0 8).toNat = payload.length) :
    headerBits (readFields h kind payload) = h := by
  simp only [headerBits, readFields, BitVec.ofNat_toNat, BitVec.setWidth_eq, hkind, ← hreserved, ← hlen]
  exact append_extracted_fields h

theorem readFields_headerBits {t : Telegram} (hd : t.dst ≤ 2047) (hs : t.src ≤ 2047) :
    readFields (headerBits t) t.kind t.payload = t := by
  obtain ⟨hdst, hsrc, -, hseq, -, -⟩ := extract_headerBits t
  simp only [readFields, hdst, hsrc, hseq, BitVec.toNat_ofNat, Nat.mod_eq_of_lt (Nat.lt_succ_of_le hd),
    Nat.mod_eq_of_lt (Nat.lt_succ_of_le hs)]

/-- What a header's word, its last byte and a payload are read as: the kind is the one that its code names, and R9 holds. -/
def readHeader (h : BitVec 40) (len : Nat) (payload : List Byte) : Option Telegram :=
  (Kind.ofCode (h.extractLsb' 14 4)).bind fun kind =>
    if fieldsOk (h.extractLsb' 8 2) len (readFields h kind payload) then some (readFields h kind payload) else none

/-- Five bytes and more are read by the word that the first five make. -/
theorem parseBody_header (b0 b1 b2 b3 b4 : Byte) (payload : List Byte) :
    parseBody (b0 :: b1 :: b2 :: b3 :: b4 :: payload) = readHeader (headerWord b0 b1 b2 b3 b4) b4.toNat payload := by
  unfold parseBody readHeader
  change (match Kind.ofCode ((headerWord b0 b1 b2 b3 b4).extractLsb' 14 4) with | none => none | some kind => _) = _
  cases Kind.ofCode ((headerWord b0 b1 b2 b3 b4).extractLsb' 14 4) <;> rfl

theorem readHeader_eq_some_iff {h : BitVec 40} {len : Nat} {payload : List Byte} {t : Telegram} :
    readHeader h len payload = some t ↔ ∃ kind, Kind.ofCode (h.extractLsb' 14 4) = some kind
      ∧ fieldsOk (h.extractLsb' 8 2) len t = true ∧ readFields h kind payload = t := by
  simp only [readHeader, Option.bind_eq_some_iff, Option.ite_none_right_eq_some, Option.some.injEq]
  constructor <;> rintro ⟨kind, hkind, hok, rfl⟩ <;> exact ⟨kind, hkind, hok, rfl⟩

/-- Fewer than five bytes are no header. -/
theorem header_of_parseBody {body : List Byte} {t : Telegram} (h : parseBody body = some t) :
    ∃ b0 b1 b2 b3 b4 payload, body = b0 :: b1 :: b2 :: b3 :: b4 :: payload := by
  unfold parseBody at h
  split at h
  · exact ⟨_, _, _, _, _, _, rfl⟩
  · cases h

/-- What is read as a telegram is that telegram's own header and payload, and the telegram is lawful (R9, R184). -/
theorem own_of_parseBody {body : List Byte} {t : Telegram} (h : parseBody body = some t) :
    body = headerBytes t ++ t.payload ∧ fieldsOk 0#2 t.payload.length t = true ∧ t.dst ≤ 2047 := by
  obtain ⟨b0, b1, b2, b3, b4, payload, rfl⟩ := header_of_parseBody h
  obtain ⟨kind, hkind, hok, rfl⟩ := readHeader_eq_some_iff.mp (parseBody_header .. ▸ h)
  obtain ⟨-, hlen, hreserved, -⟩ := (fieldsOk_iff ..).mp hok
  have hbytes := wordBytes_headerWord b0 b1 b2 b3 b4
  have hlast : (headerWord b0 b1 b2 b3 b4).extractLsb' 0 8 = b4 := by simpa [wordBytes] using congrArg List.getLast? hbytes
  have hword : headerBits (readFields (headerWord b0 b1 b2 b3 b4) kind payload) = headerWord b0 b1 b2 b3 b4 :=
    headerBits_readFields (code_of_ofCode hkind) hreserved ((congrArg BitVec.toNat hlast).trans hlen)
  refine ⟨?_, hlen ▸ hreserved ▸ hok, Nat.le_of_lt_succ (BitVec.isLt _)⟩
  rw [headerBytes_eq, hword, hbytes]
  rfl

/-- A lawful telegram's own header and payload is read as it (R9, R184). -/
theorem parseBody_own {t : Telegram} (hok : fieldsOk 0#2 t.payload.length t = true) (hd : t.dst ≤ 2047) :
    parseBody (headerBytes t ++ t.payload) = some t := by
  obtain ⟨hlen, -, -, -, hs, -⟩ := (fieldsOk_iff ..).mp hok
  obtain ⟨-, -, hkind, -, hreserved, hlast⟩ := extract_headerBits t
  have hcount : ((headerBits t).extractLsb' 0 8).toNat = t.payload.length := by
    rw [hlast, BitVec.toNat_ofNat, Nat.mod_eq_of_lt (by omega)]
  calc parseBody (headerBytes t ++ t.payload)
      = readHeader (headerBits t) ((headerBits t).extractLsb' 0 8).toNat t.payload :=
        (parseBody_header ..).trans (congrArg (readHeader · _ t.payload) (headerWord_extract _))
    _ = some t := readHeader_eq_some_iff.mpr
        ⟨t.kind, hkind ▸ ofCode_code _, by rwa [hreserved, hcount], readFields_headerBits hd (by omega)⟩

/-- A header and payload is read as a telegram exactly when it is that telegram's own and the telegram is lawful (R9,
R184). -/
theorem parseBody_eq_some_iff {body : List Byte} {t : Telegram} : parseBody body = some t ↔
    body = headerBytes t ++ t.payload ∧ fieldsOk 0#2 t.payload.length t = true ∧ t.dst ≤ 2047 :=
  ⟨own_of_parseBody, fun ⟨hbody, hok, hd⟩ => hbody ▸ parseBody_own hok hd⟩

/-- A code that names no kind fails R9. -/
theorem parseBody_undefined {b2 b3 : Byte} (h : b2.toNat % 4 * 4 + b3.toNat / 64 = 0 ∨ 11 ≤ b2.toNat % 4 * 4 + b3.toNat / 64)
    (b0 b1 b4 : Byte) (payload : List Byte) : parseBody (b0 :: b1 :: b2 :: b3 :: b4 :: payload) = none := by
  have hcode : ((headerWord b0 b1 b2 b3 b4).extractLsb' 14 4).toNat = b2.toNat % 4 * 4 + b3.toNat / 64 := by
    rw [toNat_extractLsb'_eq, toNat_headerWord]
    omega
  rw [parseBody_header, readHeader, ofCode_undefined (hcode ▸ h), Option.bind_none]

/-! ## The check word -/

/-- A check word's two bytes, high byte first, are the only two that hold it (R7). -/
theorem toNat_eq_beNat_iff (v : BitVec 16) (c1 c0 : Byte) :
    v.toNat = beNat [c1, c0] ↔ [c1, c0] = [v.extractLsb' 8 8, v.extractLsb' 0 8] := by
  simp only [beNat_pair, List.cons.injEq, and_true, ← BitVec.toNat_inj, toNat_extractLsb'_eq]
  omega

/-- One more byte goes into the remainder bit by bit, the highest first (R7). -/
theorem checkWord_append_singleton (bytes : List Byte) (b : Byte) :
    checkWord (bytes ++ [b]) = crcByte (checkWord bytes) b := by
  rw [checkWord, List.foldl_append]
  rfl

theorem crcBit_eq (reg : BitVec 16) (bit : Bool) :
    crcBit reg bit = (reg <<< 1) ^^^ (if reg.msb ≠ bit then 0x1021#16 else 0#16) := by
  unfold crcBit
  cases reg.msb <;> cases bit <;> simp

/-! ## Receptions -/

theorem headerBytes_length (t : Telegram) : (headerBytes t).length = 5 := rfl

theorem toLine_length (t : Telegram) : t.toLine.length = t.payload.length + 7 := by
  simp [Telegram.toLine, headerBytes_length]
  omega

/-- A reception passes the checks exactly when its length is in range, its last two bytes hold the check word of those before
them, and those are read as a telegram (R8, R9). -/
theorem checkReception_eq_wellFormed_iff {bytes : List Byte} {t : Telegram} : checkReception bytes = .wellFormed t ↔
    7 ≤ bytes.length ∧ bytes.length ≤ 247
      ∧ (checkWord (bytes.take (bytes.length - 2))).toNat = beNat (bytes.drop (bytes.length - 2))
      ∧ parseBody (bytes.take (bytes.length - 2)) = some t := by
  by_cases hlen : bytes.length < 7 ∨ 247 < bytes.length
  · rw [checkReception_length hlen]
    exact ⟨nofun, fun ⟨h7, h247, _⟩ => by omega⟩
  · have h7 : 7 ≤ bytes.length := by omega
    have h247 : bytes.length ≤ 247 := by omega
    rw [checkReception_of_length h7 h247]
    split
    · cases parseBody (bytes.take (bytes.length - 2)) <;> simp_all
    · simp_all

/-- A reception is read as a telegram exactly when its bytes are that telegram's own on the line and the telegram is lawful
(R8, R9, R184). -/
theorem checkReception_eq_iff_toLine {bytes : List Byte} {t : Telegram} : checkReception bytes = .wellFormed t ↔
    t.toLine = bytes ∧ fieldsOk 0#2 t.payload.length t = true ∧ t.dst ≤ 2047 := by
  rw [checkReception_eq_wellFormed_iff, parseBody_eq_some_iff]
  constructor
  · rintro ⟨h7, h247, hcheck, hbody, hok, hd⟩
    refine ⟨?_, hok, hd⟩
    obtain ⟨c1, c0, htail⟩ := List.length_eq_two.mp (show (bytes.drop (bytes.length - 2)).length = 2 by
      rw [List.length_drop]
      omega)
    rw [htail, toNat_eq_beNat_iff] at hcheck
    calc t.toLine = bytes.take (bytes.length - 2) ++ bytes.drop (bytes.length - 2) := by
          rw [htail, hcheck, hbody]
          rfl
      _ = bytes := List.take_append_drop ..
  · rintro ⟨rfl, hok, hd⟩
    obtain ⟨hlen, -⟩ := (fieldsOk_iff ..).mp hok
    have hbody : (headerBytes t ++ t.payload).length = t.toLine.length - 2 := by
      rw [toLine_length, List.length_append, headerBytes_length]
      omega
    have hlength := toLine_length t
    refine ⟨by omega, by omega, ?_, ?_, hok, hd⟩
    · rw [← hbody, Telegram.toLine, List.take_left, List.drop_left]
      exact (toNat_eq_beNat_iff ..).mpr rfl
    · rw [← hbody, Telegram.toLine, List.take_left]

end Sys2Proof.Machine

namespace Sys2Proof.Settled

open Sys2Proof.Machine

/-- Settles O3: a lawful telegram's own bytes are read as that telegram. -/
theorem telegramRoundTrip : Obligations.TelegramRoundTrip := fun _ hok hd =>
  checkReception_eq_iff_toLine.mpr ⟨rfl, hok, hd⟩

/-- Settles O4: nothing but a lawful telegram's own bytes is read, and what lawful is by the kinds and the ranges of station
numbers. -/
theorem receptionIsATelegram : Obligations.ReceptionIsATelegram := by
  refine ⟨fun bytes t h => ?_, fieldsOk_iff, fun k => ?_, fun n => ?_⟩
  · obtain ⟨hline, hok, hd⟩ := checkReception_eq_iff_toLine.mp h
    obtain ⟨h7, h247, -⟩ := checkReception_eq_wellFormed_iff.mp h
    exact ⟨hline, hok, hd, h7, h247⟩
  · cases k <;> simp [Kind.isConfirmed, Kind.isReply]
  · simp [isIndividual, isGroup]

/-- Settles O5: each header byte from the header's word, the check word bit by bit, and the codes by their tables. -/
theorem lineWords : Obligations.LineWords := by
  refine ⟨⟨by decide +kernel, by decide, by decide⟩, fun t hd hs hl => ?_, ⟨rfl, rfl, rfl, rfl, rfl, rfl, rfl, rfl, rfl, rfl⟩,
    fun b0 b1 b2 b3 b4 payload h => parseBody_undefined h b0 b1 b4 payload, ⟨rfl, rfl, rfl, rfl⟩,
    ⟨rfl, rfl, rfl, rfl, rfl, rfl, rfl, rfl⟩, rfl, fun bytes b => ?_⟩
  · have hword := toNat_headerBits hd hs hl
    refine ⟨_, _, _, _, _, _, _, rfl, ?_, ?_, ?_, ?_, ?_, beNat_pair .. ▸ ((toNat_eq_beNat_iff ..).mpr rfl).symm⟩
    all_goals
      rw [toNat_extractLsb'_eq, hword]
      omega
  · simp only [checkWord_append_singleton, crcByte, crcBit_eq]

end Sys2Proof.Settled
end

section
/-! SUPPORT. The reset and its pin (R189): a relay held in reset, HARDWARE_RESET as one equation, and the statements on both. -/

namespace Sys2Proof.Machine

/-! ## HARDWARE_RESET -/

theorem exec_hardwareReset (dt : Nat) (straps : Straps) (s : State) :
    exec (.hardwareReset dt straps) s = .next (resetWith straps (elapse dt (settle s))) := rfl

/-- The state after reset is a hardware reset of itself, with the straps it has (log 5). -/
theorem resetWith_reset : resetWith State.reset.pins State.reset = State.reset := rfl

/-! ## RESET_N -/

theorem exec_resetNLow {s : State} (hd : s.due = none) (dt lowFor : Nat) : exec (.resetNLow dt lowFor) s =
    .next (if lowFor < 10 then elapse dt s else holdInReset (elapse lowFor (elapse dt s))) := by
  rw [exec, execResetNLow, settle_of_not_due hd]
  rfl

/-! ## A relay held in reset -/

/-- The command answers next, and nothing but the clock, which does not go back, and the strap pins last seen has changed. -/
def ClockAndPinsOnly (s : State) (o : Host.Outcome State Fault Refusal) : Prop :=
  ∃ t, o = .next t ∧ t = { s with now := t.now, pins := t.pins } ∧ s.now ≤ t.now

section
variable {s : State} (h : s.held = true)
include h

/-- It does not drive its lines (R189). -/
theorem txen_of_held (x : Side) : s.txen x = false := by simp [State.txen, h]

/-- Nothing reaches it but the time that passes. -/
theorem fromOutside_held (dt : Nat) (effect : State → State) : fromOutside dt effect s = .next (elapse dt s) := by
  simp [fromOutside, settle_of_not_due (not_due_of_held h), h]

/-- It times nothing. -/
theorem fromTimer_held (effect : State → State) : fromTimer effect s = .next s := by
  simp [fromTimer, settle_of_not_due (not_due_of_held h), h]

/-- A full restart is not due, so RESTART_FULL brings the strap levels alone (log 22). -/
theorem exec_restartFull_held (straps : Straps) : exec (.restartFull straps) s = .next (withPins straps s) :=
  congrArg Host.Outcome.next (carryOutWanted_of_not_due (s := withPins straps s) _ (not_due_of_held h))

/-- But for the reset itself, its pin and the LINE_OK inputs, a command passes time, brings strap levels or does nothing (R189,
log 15). -/
theorem exec_held (c : Instr) (hreset : ∀ dt straps, c ≠ .hardwareReset dt straps)
    (hlevel : ∀ dt x level, c ≠ .lineOkChange dt x level) (hpin : ∀ dt lowFor, c ≠ .resetNLow dt lowFor) :
    ClockAndPinsOnly s (exec c s) := by
  have houtside : ∀ dt effect, ClockAndPinsOnly s (fromOutside dt effect s) := fun dt _ =>
    ⟨_, fromOutside_held h dt _, rfl, Nat.le_add_right ..⟩
  have htimer : ∀ effect, ClockAndPinsOnly s (fromTimer effect s) := fun _ => ⟨_, fromTimer_held h _, rfl, le_rfl⟩
  have hown : ∀ {k}, (executes k ≠ none ∨ k ∈ [Instr.responseClaimGranted, .eventClaimGranted, .restartQueues]) →
      ClockAndPinsOnly s (exec k s) := fun hk => ⟨_, exec_of_not_due (not_due_of_held h) hk, rfl, le_rfl⟩
  cases c with
  | hardwareReset dt straps => exact absurd rfl (hreset dt straps)
  | lineOkChange dt x level => exact absurd rfl (hlevel dt x level)
  | resetNLow dt lowFor => exact absurd rfl (hpin dt lowFor)
  | restartFull straps => exact ⟨_, exec_restartFull_held h straps, rfl, le_rfl⟩
  | lineActivityStart dt _ | receptionEnd dt _ _ | replySent dt _ | contentionLoss dt _ | transmitDone dt _ =>
    exact houtside dt _
  | quietWaitComplete _ => exact houtside 0 _
  | lineDown _ | lineUp _ | replyTimerExpiry _ | holdEnd _ | lifetimeExpiry _ | agingTick | dupHoldExpiry _ | leaseExpiry
  | eventRepeatExpiry => exact htimer _
  | responseClaimGranted | eventClaimGranted | restartQueues => exact hown (.inr (by simp))
  | malformedRequest | identify | readStations | readConfig | readCounters | readCustody | readEvents | openSession
  | closeSession | stageStation | unstageStation | stageGroups | stageParams | commit | purge | restart | setEventStation
  | setEventMask | clearEvents => exact hown (.inl nofun)

end

end Sys2Proof.Machine

namespace Sys2Proof.Settled

open Sys2Proof.Machine

/-- Settles O6: a hardware reset of the settled state, field by field. -/
theorem hardwareReset : Obligations.HardwareReset := by
  refine ⟨fun dt straps s => ?_, fun _ => rfl, fun _ _ => rfl⟩
  obtain ⟨hvalid, hinvalid⟩ := resetWith_straps straps (elapse dt (settle s))
  refine ⟨_, exec_hardwareReset dt straps s, hvalid, hinvalid, fun hd => ?_, rfl, rfl, rfl, rfl, fun x => ?_, rfl, rfl, rfl,
    rfl, rfl, rfl, rfl, rfl, rfl, rfl, rfl, rfl, rfl, rfl, rfl, rfl, fun c => ?_, rfl, rfl, rfl, rfl, rfl⟩
  · rw [settle_of_not_due hd]
    rfl
  · refine ⟨_, port_resetWith straps x _, fun hd => ?_⟩
    rw [settle_of_not_due hd, port_elapse]
  · simp [State.counter, resetWith]

/-- Settles O7: the laws hold after every hardware reset, and the state after reset is one of its own. -/
theorem resetMeetsTheLaws : Obligations.ResetMeetsTheLaws := by
  have hports : PortLaws True State.reset := resetWith_reset ▸ PortLaws.resetWith _ _
  have htables : TableLaws State.reset := resetWith_reset ▸ TableLaws.resetWith _ _
  have hstock : ∀ pooled bounded, StockLaws pooled bounded [] State.reset := fun _ _ => .cleared rfl rfl rfl rfl rfl rfl
  obtain ⟨hlegal, -, hmatched⟩ := (lawful_iff _).mpr hports
  obtain ⟨hparams, htabled, hqueues⟩ := (tableLaws_iff _).mp htables
  exact ⟨rfl, (balanced_iff _).mpr (hstock ..), (forwardBounded_iff _).mpr (hstock ..),
    (eventSetsOk_iff _).mpr (.cleared rfl rfl), hlegal, hmatched, hparams, htabled, hqueues⟩

/-- Settles O8: the length of the pulse decides, and a relay that is held follows its clock and its pins alone. -/
theorem resetPin : Obligations.ResetPin := by
  refine ⟨fun dt lowFor s hd hshort => ?_, fun dt lowFor s hd hlong => ?_, fun s x h => txen_of_held h x,
    fun c s h hreset hlevel hpin => exec_held h c hreset hlevel hpin⟩
  · rw [exec_resetNLow hd, if_pos hshort]
    rfl
  · rw [exec_resetNLow hd, if_neg (by omega)]
    rfl

end Sys2Proof.Settled
end

section
/-! SUPPORT. One step by the queue of the commands that wait (log 2); the statement on what a step carries out. -/

namespace Sys2Proof.Machine

theorem step_of_pending_nil {s : State} (h : s.pending = []) : step s = .next s := by
  rw [step, h]

theorem step_of_pending_cons {s : State} {c : Instr} {rest : List Instr} (h : s.pending = c :: rest) :
    step s = exec c { s with pending := rest } := by
  rw [step, h]

end Sys2Proof.Machine

namespace Sys2Proof.Settled

open Sys2Proof.Machine

/-- Settles O1: a step by its queue, with a command at the front or with none. -/
theorem stepTakesTheFront : Obligations.StepTakesTheFront :=
  ⟨fun _ _ _ hfront => step_of_pending_cons hfront, fun _ hempty => step_of_pending_nil hempty⟩

end Sys2Proof.Settled
end
